-- ==== Sys2Proof/Word.lean ====
section
/-! DEFINITION. The word types of CORE (spec 00_scope.md R9). All are unsigned (R11, R16). -/

namespace Sys2Proof

/-- A data byte or a character code, 8 bits (R9). -/
abbrev Byte := BitVec 8

/-- A command word, 16 bits (R9, R80). -/
abbrev CmdWord := BitVec 16

/-- The payload of a response and the value of a register, 31 bits (R62, R86). -/
abbrev Payload := BitVec 31

/-- A response word, 32 bits (R9, R86). -/
abbrev Response := BitVec 32

/-- The bit accumulator, 40 bits, the largest window width (R9, R33). -/
abbrev Accum := BitVec 40

end Sys2Proof
end

