-- ==== Sys2Proof/Config.lean ====
section
/-! DEFINITION. What an instance of CORE fixes (00_scope.md R10) and the model's one free value. -/

namespace Sys2Proof.Config

/-- The reference value of the open parameter OBUF_DEPTH (R10). An instance's own depth is the field `depth`
of the state, which no command writes. DESIGN CHOICE, log 1. -/
def referenceDepth : BitVec 13 := 4096#13

/-- The largest OBUF_DEPTH (R10). -/
def maxDepth : Nat := 4096

/-- What an OBUF entry that nothing has written since reset holds. The spec leaves it unspecified (10_state.md R37,
R38; 93_implementation_defined.md I6): a FREE VALUE, with no body. Only a state that no run reaches reads it. Log 2. -/
opaque obufUnspecified : Nat → Byte

end Sys2Proof.Config
end

