-- ==== Sys2Proof/Syntax.lean ====
section
/-! DEFINITION. The commands of CORE: one constructor per row of spec/opcode_table.json (30_encoding.md R82), with
the operand fields of R81 and R83. -/

namespace Sys2Proof

/-- The four radix schemes, the values of CONFIG.SCHEME (00_scope.md R2, 10_state.md R23). -/
inductive Scheme where
  | hex
  | b32
  | b64
  | b64url
deriving DecidableEq, Repr

/-- The direction of a message, CONFIG.DIR (10_state.md R23): 0 = encode, 1 = decode. -/
inductive Dir where
  | encode
  | decode
deriving DecidableEq, Repr

/-- A command. `cfg`'s third operand is the CASE bit (true = 1), its fourth the PAD bit (true = 1); what they mean
depends on the direction (10_state.md R23). `endMsg` is END, whose own name is a Lean keyword. -/
inductive Instr where
  | nop
  | cfg (scheme : Scheme) (dir : Dir) (caseBit padBit : Bool)
  | putb (data : BitVec 8)
  | putc (data : BitVec 8)
  | endMsg
  | rdreg (reg : BitVec 4)
  | rdout (addr : BitVec 12)
  | srst
deriving DecidableEq, Repr

end Sys2Proof
end

