-- ==== Sys2Proof/Machine/Params.lean ====
section
/-! DEFINITION. The per-scheme constants (00_scope.md R7, R8) and the legality of a configuration (10_state.md R24,
40_control.md R112). -/

namespace Sys2Proof.Machine

/-- k, the group width in bits (R7). -/
def groupBits : Scheme → Nat
  | .hex => 4
  | .b32 => 5
  | .b64 => 6
  | .b64url => 6

/-- CB, the chunk size in bytes (R7). -/
def chunkBytes : Scheme → Nat
  | .hex => 1
  | .b32 => 5
  | .b64 => 3
  | .b64url => 3

/-- W, the window size in characters (R7). -/
def windowChars : Scheme → Nat
  | .hex => 2
  | .b32 => 8
  | .b64 => 4
  | .b64url => 4

/-- WB, the window width in bits (R7). -/
def windowBits : Scheme → Nat
  | .hex => 8
  | .b32 => 40
  | .b64 => 24
  | .b64url => 24

/-- HASPAD: whether the scheme has a pad character (R7). -/
def hasPad : Scheme → Bool
  | .hex => false
  | .b32 => true
  | .b64 => true
  | .b64url => true

/-- The pad character `=` (R7, R56). -/
def padChar : Byte := 0x3D#8

/-- VS, the bit counts that a short decode window may contribute (R8). -/
def validShort : Scheme → List Nat
  | .hex => []
  | .b32 => [10, 20, 25, 35]
  | .b64 => [12, 18]
  | .b64url => [12, 18]

/-- n(b) = ⌈8·b/k⌉, the data characters a chunk of b bytes emits (41_encode.md R144). -/
def charsOfBytes (sch : Scheme) (b : Nat) : Nat :=
  (8 * b + groupBits sch - 1) / groupBits sch

/-- `legal(s, d, c, p) = (s = HEX → p = 0) ∧ (c = 1 → (d = 0 ∧ s ∈ {HEX, B32}))` (10_state.md R24, R112). -/
def legalConfig (sch : Scheme) (dir : Dir) (caseBit padBit : Bool) : Bool :=
  (sch != .hex || !padBit) && (!caseBit || (dir == .encode && (sch == .hex || sch == .b32)))

end Sys2Proof.Machine
end

