-- ==== Sys2Proof/WellFormed.lean ====
section
/-! DEFINITION. The checks of a command that do not depend on the state (30_encoding.md R85). Every field of `Instr`
has exactly the width of its field in the word, so every command can be encoded; a command that fails one of these
checks still decodes, and its meaning NAKs it in every state (log 6). -/

namespace Sys2Proof

/-- A command passes its own state-independent check (R85): CFG's `legal` (R24), RDREG's REG ≤ 7 (R210). -/
def Instr.wellFormed : Instr → Bool
  | .nop => true
  | .cfg scheme dir caseBit padBit => Machine.legalConfig scheme dir caseBit padBit
  | .putb _ => true
  | .putc _ => true
  | .endMsg => true
  | .rdreg reg => decide (reg.toNat ≤ 7)
  | .rdout _ => true
  | .srst => true

end Sys2Proof
end

