-- ==== Sys2Proof/Decode.lean ====
section
/-! DEFINITION. The command decoder, total on all 2^16 words (30_encoding.md R87), the opcode map it must agree with
(R82), and the encoder (R81). -/

namespace Sys2Proof

/-- Why a word is reserved (R85): its opcode is 0x8..0xF, or a bit of its opcode's zero field is 1 (R84). -/
inductive Reserved where
  | opcode (op : BitVec 4)
  | zeroField (op : BitVec 4)
deriving DecidableEq, Repr

/-- What the decoder answers: `Cmd ⊎ {Reserved}` (R87). -/
inductive Decoded where
  | command (i : Instr)
  | reserved (why : Reserved)
deriving DecidableEq, Repr

/-- The scheme whose SCHEME field is `b` (10_state.md R23). -/
def schemeOfBits (b : BitVec 2) : Scheme :=
  if b = 0#2 then .hex else if b = 1#2 then .b32 else if b = 2#2 then .b64 else .b64url

/-- The SCHEME field of a scheme (10_state.md R23). -/
def schemeBits : Scheme → BitVec 2
  | .hex => 0#2
  | .b32 => 1#2
  | .b64 => 2#2
  | .b64url => 3#2

/-- The direction whose DIR bit is `b` (10_state.md R23). -/
def dirOfBit (b : Bool) : Dir := if b then .decode else .encode

/-- The DIR bit of a direction (10_state.md R23). -/
def dirBit : Dir → Bool
  | .encode => false
  | .decode => true

/-- The five operand bits of CFG, `w[4:0] = PAD ‖ CASE ‖ DIR ‖ SCHEME` (R81), which are also CONFIG's (R22). -/
def configBits (sch : Scheme) (dir : Dir) (caseBit padBit : Bool) : BitVec 5 :=
  BitVec.ofBool padBit ++ BitVec.ofBool caseBit ++ BitVec.ofBool (dirBit dir) ++ schemeBits sch

/-- The command of a word whose zero field is the slice `zero`, or Reserved when that slice is not 0 (R84). -/
def unlessZeroField (op : BitVec 4) (zeroIsClear : Bool) (i : Instr) : Decoded :=
  if zeroIsClear then .command i else .reserved (.zeroField op)

/-- The command decoder (R87). -/
def decode (w : CmdWord) : Decoded :=
  let op := w.extractLsb' 12 4
  if op = 0x0#4 then unlessZeroField op (w.extractLsb' 0 12 == 0#12) .nop
  else if op = 0x1#4 then
    unlessZeroField op (w.extractLsb' 5 7 == 0#7)
      (.cfg (schemeOfBits (w.extractLsb' 0 2)) (dirOfBit (w.getLsbD 2)) (w.getLsbD 3) (w.getLsbD 4))
  else if op = 0x2#4 then unlessZeroField op (w.extractLsb' 8 4 == 0#4) (.putb (w.extractLsb' 0 8))
  else if op = 0x3#4 then unlessZeroField op (w.extractLsb' 8 4 == 0#4) (.putc (w.extractLsb' 0 8))
  else if op = 0x4#4 then unlessZeroField op (w.extractLsb' 0 12 == 0#12) .endMsg
  else if op = 0x5#4 then unlessZeroField op (w.extractLsb' 4 8 == 0#8) (.rdreg (w.extractLsb' 0 4))
  else if op = 0x6#4 then .command (.rdout (w.extractLsb' 0 12))
  else if op = 0x7#4 then unlessZeroField op (w.extractLsb' 0 12 == 0#12) .srst
  else .reserved (.opcode op)

/-- The word of a command, written field by field from the formats of R81. -/
def encode : Instr → CmdWord
  | .nop => 0x0#4 ++ 0#12
  | .cfg scheme dir caseBit padBit => 0x1#4 ++ 0#7 ++ configBits scheme dir caseBit padBit
  | .putb data => 0x2#4 ++ 0#4 ++ data
  | .putc data => 0x3#4 ++ 0#4 ++ data
  | .endMsg => 0x4#4 ++ 0#12
  | .rdreg reg => 0x5#4 ++ 0#8 ++ reg
  | .rdout addr => 0x6#4 ++ addr
  | .srst => 0x7#4 ++ 0#12

/-- A row of the opcode map (R82). -/
structure OpcodeRow where
  mnemonic : String
  pattern  : CmdWord
  mask     : CmdWord
deriving DecidableEq, Repr

/-- The opcode map (R82; spec/opcode_table.json). -/
def opcodeMap : List OpcodeRow :=
  [ ⟨"NOP",   0x0000#16, 0xFFFF#16⟩,
    ⟨"CFG",   0x1000#16, 0xFFE0#16⟩,
    ⟨"PUTB",  0x2000#16, 0xFF00#16⟩,
    ⟨"PUTC",  0x3000#16, 0xFF00#16⟩,
    ⟨"END",   0x4000#16, 0xFFFF#16⟩,
    ⟨"RDREG", 0x5000#16, 0xFFF0#16⟩,
    ⟨"RDOUT", 0x6000#16, 0xF000#16⟩,
    ⟨"SRST",  0x7000#16, 0xFFFF#16⟩ ]

/-- A word is of a row's opcode when `(w & mask) = match` (R82). -/
def OpcodeRow.fits (r : OpcodeRow) (w : CmdWord) : Bool := (w &&& r.mask) == r.pattern

/-- The mnemonic of a command, as R82 spells it. -/
def mnemonicOf : Instr → String
  | .nop => "NOP"
  | .cfg _ _ _ _ => "CFG"
  | .putb _ => "PUTB"
  | .putc _ => "PUTC"
  | .endMsg => "END"
  | .rdreg _ => "RDREG"
  | .rdout _ => "RDOUT"
  | .srst => "SRST"

/-- The command word whose bits are the low `nbits` bits of `w`. A command word is one 16-bit number on the command
port (R80): it is stored nowhere, so it has no byte order. -/
def wordOfBits (nbits w : Nat) : CmdWord := BitVec.ofNat 16 (w % 2 ^ nbits)

/-- The command this decoder reads from a word numbered as spec/opcode_table.json numbers it, and none where the word
is reserved. Every command has 16 bits (R80), so no command has more. -/
def decodeTableWord (nbits w : Nat) : Option Instr :=
  if nbits ≤ 16 then
    match decode (wordOfBits nbits w) with
    | .command i => some i
    | .reserved _ => none
  else none

end Sys2Proof
end

