-- ==== Sys2Proof/Machine/State.lean ====
section
/-! DEFINITION. The state of CORE as plain data (10_state.md R20 to R38), its reset value, and the reasons a step
can stop. -/

namespace Sys2Proof.Machine

/-- STATUS.STATE (R25): the state of the message, two bits. -/
inductive MsgState where
  | idle
  | active
  | doneOk
  | doneErr
deriving DecidableEq, Repr

/-- The named codes of ERR_REASON (60_exceptions.md R230). Codes 5 to 7 are reserved and never written. -/
inductive ErrReason where
  | ok
  | invalidCharacter
  | invalidPadding
  | oddLength
  | outputOverflow
deriving DecidableEq, Repr

/-- The output buffer: the entries written since reset, by rising address, each address once. An address that is not
listed has been written by nothing since reset, and the spec gives it no value (R37, R38; log 2). -/
abbrev Memory := List Host.Cell

/-- The state of CORE, with the host's command list and position beside it (R20). STATUS.ERRL, SCHEME_INFO and ID are
not storage (R27, R32, R21): they are computed where they are read. -/
structure State where
  /-- CONFIG (R22): PAD ‖ CASE ‖ DIR ‖ SCHEME. -/
  config : BitVec 5
  /-- STATUS.STATE (R25, R26). -/
  msgState : MsgState
  /-- STATUS.OVF (R25). -/
  ovf : Bool
  /-- STATUS.ILL (R25). -/
  ill : Bool
  /-- ERR_REASON (R28). -/
  errReason : BitVec 3
  /-- OUT_COUNT (R29). -/
  outCount : BitVec 13
  /-- IN_COUNT (R30). -/
  inCount : BitVec 31
  /-- DEPTH, the constant OBUF_DEPTH of the instance (R31, R10). -/
  depth : BitVec 13
  /-- ACC (R33). -/
  acc : Accum
  /-- CNT (R34): NB on encode, POS on decode. -/
  cnt : BitVec 4
  /-- BITS (R35). -/
  bits : BitVec 6
  /-- PADSEEN (R36). -/
  padSeen : Bool
  /-- OBUF (R37, R51). -/
  obuf : Memory
  /-- The response to the latest command (30_encoding.md R86); none before the first. -/
  response : Option Response
  /-- The host's command words (R20). -/
  hostProgram : List CmdWord
  /-- The host's position in its command words (R20). -/
  hostPos : Nat
deriving DecidableEq, Repr

/-- The faults of CORE: none. It has no traps (60_exceptions.md R240), and every command completes
(93_implementation_defined.md section 1), so no meaning raises a fault. -/
inductive Fault where
deriving DecidableEq, Repr

/-- The reasons for which the model gives a command no meaning. -/
inductive Refusal where
  /-- An arm of `exec` whose command has no meaning yet. Nothing raises it: every command has its meaning. Safe. -/
  | notModelled (mnemonic : String)
deriving DecidableEq, Repr

/-- The state after power-on reset of an instance whose OBUF_DEPTH is `depth` (R38, 70_reset_and_hazards.md R260). -/
def State.resetWith (depth : BitVec 13) : State where
  config := 0#5
  msgState := .idle
  ovf := false
  ill := false
  errReason := 0#3
  outCount := 0#13
  inCount := 0#31
  depth := depth
  acc := 0#40
  cnt := 0#4
  bits := 0#6
  padSeen := false
  obuf := []
  response := none
  hostProgram := []
  hostPos := 0

/-- The state right after power-on reset of the reference instance (R38, R10). -/
def State.reset : State := State.resetWith Config.referenceDepth

end Sys2Proof.Machine
end

