-- ==== Sys2Proof/Machine/Operands.lean ====
section
/-! DEFINITION. The operand forms: the fields of CONFIG (10_state.md R23), the slices of ACC (20_memory.md R60, R61),
the two lookup ROMs (R56, R58). Operands of a command word are taken as they stand (30_encoding.md R83). -/

namespace Sys2Proof.Machine

/-- CONFIG.SCHEME (R23). -/
def schemeOf (config : BitVec 5) : Scheme := schemeOfBits (config.extractLsb' 0 2)

/-- CONFIG.DIR (R23). -/
def dirOf (config : BitVec 5) : Dir := dirOfBit (config.getLsbD 2)

/-- CONFIG.CASE (R23). -/
def caseOf (config : BitVec 5) : Bool := config.getLsbD 3

/-- CONFIG.PAD (R23). -/
def padOf (config : BitVec 5) : Bool := config.getLsbD 4

/-- ACC[WB−1−8·i : WB−8·(i+1)], byte i of the window (R61). -/
def accByte (sch : Scheme) (acc : Accum) (i : Nat) : Byte :=
  acc.extractLsb' (windowBits sch - 8 * (i + 1)) 8

/-- ACC[WB−1−k·i : WB−k·(i+1)], group i of the chunk, as a number below 2^k (R60). -/
def accGroup (sch : Scheme) (acc : Accum) (i : Nat) : Nat :=
  (acc.extractLsb' (windowBits sch - groupBits sch * (i + 1)) (groupBits sch)).toNat

/-- Byte `data` at byte position `i` of the window: `zext_40(data) << (WB − 8·(i+1))` (41_encode.md R141). -/
def placeByte (sch : Scheme) (data : Byte) (i : Nat) : Accum :=
  data.setWidth 40 <<< (windowBits sch - 8 * (i + 1))

/-- Group `v` at character position `i` of the window: `zext_40(v) << (WB − k·(i+1))` (42_decode.md R171, R174). -/
def placeGroup (sch : Scheme) (v : BitVec 6) (i : Nat) : Accum :=
  v.setWidth 40 <<< (windowBits sch - groupBits sch * (i + 1))

/-- EncLUT(s, c, v), the code of character v of the alphabet (R56, the column of code ranges). B64 and B64URL have one
alphabet (41_encode.md R150). It is called with v < 2^k only. -/
def encLUT (sch : Scheme) (caseBit : Bool) (v : Nat) : Byte :=
  BitVec.ofNat 8 <|
    match sch with
    | .hex => if v < 10 then 0x30 + v else (if caseBit then 0x61 else 0x41) + (v - 10)
    | .b32 => if v < 26 then (if caseBit then 0x61 else 0x41) + v else 0x32 + (v - 26)
    | .b64 =>
      if v < 26 then 0x41 + v else if v < 52 then 0x61 + (v - 26) else if v < 62 then 0x30 + (v - 52)
      else if v = 62 then 0x2B else 0x2F
    | .b64url =>
      if v < 26 then 0x41 + v else if v < 52 then 0x61 + (v - 26) else if v < 62 then 0x30 + (v - 52)
      else if v = 62 then 0x2D else 0x5F

/-- What DecLUT returns for a character code (R58). -/
inductive CharClass where
  | data (v : BitVec 6)
  | pad
  | invalid
deriving DecidableEq, Repr

/-- DATA(first + (c − lo)), the row of a decode map whose codes start at `lo` (R58). -/
def dataFrom (c lo first : Nat) : CharClass := .data (BitVec.ofNat 6 (first + (c - lo)))

/-- The letters and digits that the B64 and B64URL maps share, and `=` (R58). -/
def decBase64Common (c : Nat) : CharClass :=
  if 0x30 ≤ c ∧ c ≤ 0x39 then dataFrom c 0x30 52
  else if c = 0x3D then .pad
  else if 0x41 ≤ c ∧ c ≤ 0x5A then dataFrom c 0x41 0
  else if 0x61 ≤ c ∧ c ≤ 0x7A then dataFrom c 0x61 26
  else .invalid

/-- DecLUT(s, ch) (R58). -/
def decLUT (sch : Scheme) (ch : Byte) : CharClass :=
  let c := ch.toNat
  match sch with
  | .hex =>
    if 0x30 ≤ c ∧ c ≤ 0x39 then dataFrom c 0x30 0
    else if 0x41 ≤ c ∧ c ≤ 0x46 then dataFrom c 0x41 10
    else if 0x61 ≤ c ∧ c ≤ 0x66 then dataFrom c 0x61 10
    else .invalid
  | .b32 =>
    if 0x32 ≤ c ∧ c ≤ 0x37 then dataFrom c 0x32 26
    else if c = 0x3D then .pad
    else if 0x41 ≤ c ∧ c ≤ 0x5A then dataFrom c 0x41 0
    else if 0x61 ≤ c ∧ c ≤ 0x7A then dataFrom c 0x61 0
    else .invalid
  | .b64 => if c = 0x2B then dataFrom c 0x2B 62 else if c = 0x2F then dataFrom c 0x2F 63 else decBase64Common c
  | .b64url => if c = 0x2D then dataFrom c 0x2D 62 else if c = 0x5F then dataFrom c 0x5F 63 else decBase64Common c

end Sys2Proof.Machine
end

