-- ==== Sys2Proof/Machine/Flags.lean ====
section
/-! DEFINITION. The status register (10_state.md R25 to R27), the error codes (60_exceptions.md R230), the final reason
(40_control.md R115) and the register read-out (43_readback.md R210). -/

namespace Sys2Proof.Machine

/-- The code of STATUS.STATE (R25). -/
def stateCode : MsgState → BitVec 2
  | .idle => 0#2
  | .active => 1#2
  | .doneOk => 2#2
  | .doneErr => 3#2

/-- The code of an error reason (R230). -/
def errCode : ErrReason → BitVec 3
  | .ok => 0#3
  | .invalidCharacter => 1#3
  | .invalidPadding => 2#3
  | .oddLength => 3#3
  | .outputOverflow => 4#3

/-- STATUS.ERRL, which always equals (ERR_REASON ≠ 0) (R27). -/
def errl (s : State) : Bool := s.errReason != 0#3

/-- STATUS[4:0] = ILL ‖ OVF ‖ ERRL ‖ STATE (R25). -/
def statusOf (s : State) : BitVec 5 :=
  BitVec.ofBool s.ill ++ BitVec.ofBool s.ovf ++ BitVec.ofBool (errl s) ++ stateCode s.msgState

/-- FinalReason (R115): ODD_LENGTH before any format error, and OUTPUT_OVERFLOW only when there is none. -/
def finalReason (s : State) : BitVec 3 :=
  if dirOf s.config = .decode ∧ schemeOf s.config = .hex ∧ s.inCount.getLsbD 0 = true then errCode .oddLength
  else if s.errReason = 0#3 ∧ s.ovf = true then errCode .outputOverflow
  else s.errReason

/-- SCHEME_INFO, `k | (CB << 4) | (W << 8) | (HASPAD << 12)` (R32). -/
def schemeInfo (sch : Scheme) : Payload :=
  BitVec.ofNat 31 (groupBits sch) ||| (BitVec.ofNat 31 (chunkBytes sch) <<< 4)
    ||| (BitVec.ofNat 31 (windowChars sch) <<< 8) ||| ((BitVec.ofBool (hasPad sch)).setWidth 31 <<< 12)

/-- The ID register, "RDX1" (R211). -/
def idValue : Payload := 0x52445831#31

/-- The value of register `reg`, and none at the reserved indices 8..15 (R21, R210). -/
def readReg (reg : BitVec 4) (s : State) : Option Payload :=
  match reg.toNat with
  | 0 => some idValue
  | 1 => some (s.config.setWidth 31)
  | 2 => some ((statusOf s).setWidth 31)
  | 3 => some (s.errReason.setWidth 31)
  | 4 => some (s.outCount.setWidth 31)
  | 5 => some s.inCount
  | 6 => some (s.depth.setWidth 31)
  | 7 => some (schemeInfo (schemeOf s.config))
  | _ => none

end Sys2Proof.Machine
end

