-- ==== Sys2Proof/Machine/Ops.lean ====
section
/-! DEFINITION. The shared operations: reads and writes of OBUF, Emit (20_memory.md R52), responses (30_encoding.md
R86), `raise` (60_exceptions.md R236) and NAK (R238), the clearing of the window state, Commit (40_control.md R116).
CORE has no traps (R240): a rejected command takes NAK, and there is nothing to return from (R241). -/

namespace Sys2Proof.Machine

/-- The strictly-rising form of OBUF's list, counted from a first allowed address. -/
def Memory.wfFrom : Nat → Memory → Bool
  | _, [] => true
  | lo, (a, _) :: rest => decide (lo ≤ a) && Memory.wfFrom (a + 1) rest

/-- The canonical form of OBUF: addresses strictly rising. An unlisted address has no value, so no entry equals what an
unlisted address reads as. -/
def Memory.wf (m : Memory) : Bool := Memory.wfFrom 0 m

/-- The entry at address `a`, and none where nothing has been written since reset (R213; log 2). -/
def Memory.read : Memory → Nat → Option Byte
  | [], _ => none
  | (b, x) :: rest, a => if a = b then some x else Memory.read rest a

/-- MemWrite(a, 1, x), which keeps the canonical form (R52). -/
def Memory.write : Memory → Nat → Byte → Memory
  | [], a, x => [(a, x)]
  | (b, y) :: rest, a, x =>
    if a < b then (a, x) :: (b, y) :: rest
    else if a = b then (a, x) :: rest
    else (b, y) :: Memory.write rest a x

/-- Emit(x) (R52). -/
def emit (x : Byte) (s : State) : State :=
  if s.outCount < s.depth then
    { s with obuf := Memory.write s.obuf s.outCount.toNat x, outCount := s.outCount + 1#13 }
  else { s with ovf := true }

/-- Emit each value in order. -/
def emitAll (xs : List Byte) (s : State) : State := xs.foldl (fun t x => emit x t) s

/-- respond(v): response bit 31 is 0, bits [30:0] are v (R86). -/
def respond (v : Payload) (s : State) : State := { s with response := some (v.setWidth 32) }

/-- respond(zext_31(STATUS)), the response of every accepted command that reads nothing (R86). -/
def respondStatus (s : State) : State := respond ((statusOf s).setWidth 31) s

/-- NAK: `STATUS.ILL <- 1` and nothing else, with the response `0x80000000 | zext_31(STATUS)` (R238). -/
def nak (s : State) : State :=
  let t := { s with ill := true }
  { t with response := some (0x80000000#32 ||| (statusOf t).setWidth 32) }

/-- raise E: latches the first error only (R236). -/
def raise (e : ErrReason) (s : State) : State :=
  if s.errReason = 0#3 then { s with errReason := errCode e } else s

/-- `ACC <- 0; CNT <- 0; BITS <- 0; PADSEEN <- 0` (R111, R113, R179, R185). -/
def clearWindow (s : State) : State := { s with acc := 0#40, cnt := 0#4, bits := 0#6, padSeen := false }

/-- `ACC <- 0; NB <- 0` (R141, R147). -/
def clearChunk (s : State) : State := { s with acc := 0#40, cnt := 0#4 }

/-- `IN_COUNT <- (IN_COUNT + 1) mod 2^31` (10_state.md R30). -/
def countInput (s : State) : State := { s with inCount := s.inCount + 1#31 }

/-- Commit(reason): all or nothing (40_control.md R116). -/
def commit (reason : BitVec 3) (s : State) : State :=
  if reason = 0#3 then { s with msgState := .doneOk } else { s with msgState := .doneErr, outCount := 0#13 }

/-- A message of direction `dir` is in progress: what PUTB and PUTC check (R141, R171). -/
def inMessage (dir : Dir) (s : State) : Bool := s.msgState == .active && dirOf s.config == dir

end Sys2Proof.Machine
end

