-- ==== Sys2Proof/Machine/DecodePath.lean ====
section
/-! DEFINITION. The decode path: PUTC, the padding validator, the window close and the decode flush (42_decode.md R170
to R190). -/

namespace Sys2Proof.Machine

/-- The padding validator's verdict on a window that closes with `bits` bits in `acc`: how many bytes it yields, and
none when the window is short and its bit count or its unused bits are not valid (R179 to R182). -/
def windowBytes (sch : Scheme) (acc : Accum) (bits : Nat) : Option Nat :=
  if bits < windowBits sch then
    if bits ∈ validShort sch then
      if acc.extractLsb' 0 (windowBits sch - 8 * (bits / 8)) = 0#_ then some (bits / 8) else none
    else none
  else some (chunkBytes sch)

/-- The first `n` bytes of the window, most significant first (R183). -/
def windowOutput (sch : Scheme) (acc : Accum) (n : Nat) : List Byte := (List.range n).map (accByte sch acc)

/-- WindowClose (R179). -/
def windowClose (s : State) : State :=
  match windowBytes (schemeOf s.config) s.acc s.bits.toNat with
  | none => raise .invalidPadding s
  | some n => clearWindow (emitAll (windowOutput (schemeOf s.config) s.acc n) s)

/-- `POS <- POS + 1`, and the window that reaches W positions is closed (R171, R178). -/
def advanceWindow (s : State) : State :=
  let t := { s with cnt := s.cnt + 1#4 }
  if t.cnt.toNat = windowChars (schemeOf t.config) then windowClose t else t

/-- A data character's value enters ACC at position POS and adds k bits (R174). -/
def insertGroup (v : BitVec 6) (s : State) : State :=
  { s with
    acc := s.acc ||| placeGroup (schemeOf s.config) v s.cnt.toNat
    bits := s.bits + BitVec.ofNat 6 (groupBits (schemeOf s.config)) }

/-- One character of a message with no latched error (R171 to R176). -/
def consumeChar (data : Byte) (s : State) : State :=
  match decLUT (schemeOf s.config) data with
  | .pad => advanceWindow { s with padSeen := true }
  | .data v => if s.padSeen then raise .invalidPadding s else advanceWindow (insertGroup v s)
  | .invalid => raise .invalidCharacter s

/-- PUTC's effect once it is accepted: after the first error it only counts (R171, R177). -/
def acceptChar (data : Byte) (s : State) : State :=
  if s.errReason = 0#3 then consumeChar data (countInput s) else countInput s

/-- What the end of the input does to a partial final window (R185 to R187). -/
def flushWindow (s : State) : State :=
  match schemeOf s.config with
  | .hex => s
  | .b32 | .b64 | .b64url => if padOf s.config then windowClose s else raise .invalidCharacter s

/-- DecodeFlush (R185). -/
def decodeFlush (s : State) : State :=
  clearWindow (if s.errReason = 0#3 ∧ 0 < s.cnt.toNat then flushWindow s else s)

/-- PUTC (R171). -/
def execPutc (data : BitVec 8) (s : State) : Host.Outcome State Fault Refusal :=
  .next <| if inMessage .decode s then respondStatus (acceptChar data s) else nak s

end Sys2Proof.Machine
end

