-- ==== Sys2Proof/Machine/EncodePath.lean ====
section
/-! DEFINITION. The encode path: PUTB, the chunk slicer and the encode flush (41_encode.md R140 to R150). -/

namespace Sys2Proof.Machine

/-- The data characters of a chunk of `b` bytes, most significant group first (R143, R144). -/
def chunkDataChars (config : BitVec 5) (acc : Accum) (b : Nat) : List Byte :=
  (List.range (charsOfBytes (schemeOf config) b)).map fun i =>
    encLUT (schemeOf config) (caseOf config) (accGroup (schemeOf config) acc i)

/-- The pad characters that complete a chunk of `b` bytes to W characters, when padding is Include (R143, R146). -/
def chunkPads (config : BitVec 5) (b : Nat) : List Byte :=
  if padOf config = false ∧ hasPad (schemeOf config) = true then
    List.replicate (windowChars (schemeOf config) - charsOfBytes (schemeOf config) b) padChar
  else []

/-- EmitChunk(b) (R143). -/
def emitChunk (b : Nat) (s : State) : State :=
  emitAll (chunkDataChars s.config s.acc b ++ chunkPads s.config b) s

/-- The byte enters ACC at byte position NB, and NB goes up by one (R141). -/
def insertByte (data : Byte) (s : State) : State :=
  { s with acc := s.acc ||| placeByte (schemeOf s.config) data s.cnt.toNat, cnt := s.cnt + 1#4 }

/-- A chunk that holds CB bytes is emitted whole and cleared (R141, R142). -/
def completeChunk (s : State) : State :=
  if s.cnt.toNat = chunkBytes (schemeOf s.config) then
    clearChunk (emitChunk (chunkBytes (schemeOf s.config)) s)
  else s

/-- EncodeFlush: a short final chunk is emitted (R147). -/
def encodeFlush (s : State) : State :=
  clearChunk (if 0 < s.cnt.toNat then emitChunk s.cnt.toNat s else s)

/-- PUTB (R141). -/
def execPutb (data : BitVec 8) (s : State) : Host.Outcome State Fault Refusal :=
  .next <|
    if inMessage .encode s then respondStatus (completeChunk (insertByte data (countInput s)))
    else nak s

end Sys2Proof.Machine
end

