-- ==== Sys2Proof/Machine/Control.lean ====
section
/-! DEFINITION. The control commands NOP, CFG, END and SRST (40_control.md R110 to R117), and what happens to a word
that is no command (60_exceptions.md R239). -/

namespace Sys2Proof.Machine

/-- NOP: it responds and changes no state (R110). -/
def execNop (s : State) : Host.Outcome State Fault Refusal := .next (respondStatus s)

/-- A new message with configuration `config` (R111). -/
def beginMessage (config : BitVec 5) (s : State) : State :=
  clearWindow
    { s with
      config := config
      msgState := .active
      errReason := 0#3
      ovf := false
      outCount := 0#13
      inCount := 0#31 }

/-- CFG (R111, R112). -/
def execCfg (scheme : Scheme) (dir : Dir) (caseBit padBit : Bool) (s : State) : Host.Outcome State Fault Refusal :=
  .next <|
    if legalConfig scheme dir caseBit padBit then respondStatus (beginMessage (configBits scheme dir caseBit padBit) s)
    else nak s

/-- The flush END runs, which depends on CONFIG.DIR only (R114). -/
def flushMessage (s : State) : State :=
  match dirOf s.config with
  | .encode => encodeFlush s
  | .decode => decodeFlush s

/-- What END does after the flush: the final reason, Commit, and the window state cleared (R113, R115, R116). -/
def closeMessage (s : State) : State :=
  clearWindow (commit (finalReason s) { s with errReason := finalReason s })

/-- END (R113). -/
def execEnd (s : State) : Host.Outcome State Fault Refusal :=
  .next <| if s.msgState = .active then respondStatus (closeMessage (flushMessage s)) else nak s

/-- The reset of every register and hidden field (10_state.md R38): the instance's depth and the host's own list and
position are no state of CORE that a reset changes. -/
def softReset (s : State) : State :=
  { State.resetWith s.depth with response := s.response, hostProgram := s.hostProgram, hostPos := s.hostPos }

/-- SRST: the reset, with the response 0x00000000 (R117). -/
def execSrst (s : State) : Host.Outcome State Fault Refusal := .next (respond 0#31 (softReset s))

/-- A reserved word is NAKed in every state, whatever makes it reserved (R84, R85, R239). -/
def execReserved (_ : Reserved) (s : State) : Host.Outcome State Fault Refusal := .next (nak s)

end Sys2Proof.Machine
end

