-- ==== Sys2Proof/Machine/CommandPort.lean ====
section
/-! DEFINITION. The command port: the host's command list and its position in it (10_state.md R20). -/

namespace Sys2Proof.Machine

/-- The command word the host sends next, and none when its list is exhausted (R20, 70_reset_and_hazards.md R267). -/
def nextCommand (s : State) : Option CmdWord := s.hostProgram[s.hostPos]?

/-- The host's position moves by one per command, and nothing else moves it (R20). -/
def advanceHost (s : State) : State := { s with hostPos := s.hostPos + 1 }

/-- The command list with word `w` at position `n`; places before it that the list lacks hold NOP. -/
def placeCommand : List CmdWord → Nat → CmdWord → List CmdWord
  | [], 0, w => [w]
  | [], n + 1, w => 0x0000#16 :: placeCommand [] n w
  | _ :: rest, 0, w => w :: rest
  | c :: rest, n + 1, w => c :: placeCommand rest n w

end Sys2Proof.Machine
end

