-- ==== Sys2Proof/Machine/Readback.lean ====
section
/-! DEFINITION. The readback commands RDREG and RDOUT (43_readback.md R210 to R215). -/

namespace Sys2Proof.Machine

/-- RDREG (R210). -/
def execRdreg (reg : BitVec 4) (s : State) : Host.Outcome State Fault Refusal :=
  .next <|
    match readReg reg s with
    | some v => respond v s
    | none => nak s

/-- MemRead(a, 1) (R213). An entry nothing has written since reset holds the free value; only a state that no run
reaches asks for one (log 2). -/
def obufEntry (m : Memory) (a : Nat) : Byte :=
  match Memory.read m a with
  | some x => x
  | none => Config.obufUnspecified a

/-- RDOUT's own check (R212): the message ended in DONE_OK and ADDR < OUT_COUNT. -/
def entryReadable (addr : BitVec 12) (s : State) : Bool :=
  s.msgState == .doneOk && decide (addr.toNat < s.outCount.toNat)

/-- RDOUT (R212). -/
def execRdout (addr : BitVec 12) (s : State) : Host.Outcome State Fault Refusal :=
  .next <|
    if entryReadable addr s then respond ((obufEntry s.obuf addr.toNat).setWidth 31) s
    else nak s

end Sys2Proof.Machine
end

