-- ==== Sys2Proof/Machine/Dispatch.lean ====
section
/-! DEFINITION. One arm per command (00_scope.md R13): each is a direct call of the command's meaning. -/

namespace Sys2Proof.Machine

def exec (i : Instr) (s : State) : Host.Outcome State Fault Refusal :=
  match i with
  | .nop => Sys2Proof.Machine.execNop s
  | .cfg scheme dir caseBit padBit => Sys2Proof.Machine.execCfg scheme dir caseBit padBit s
  | .putb data => Sys2Proof.Machine.execPutb data s
  | .putc data => Sys2Proof.Machine.execPutc data s
  | .endMsg => Sys2Proof.Machine.execEnd s
  | .rdreg reg => Sys2Proof.Machine.execRdreg reg s
  | .rdout addr => Sys2Proof.Machine.execRdout addr s
  | .srst => Sys2Proof.Machine.execSrst s

end Sys2Proof.Machine
end

