-- ==== Sys2Proof/Machine/RunWord.lean ====
section
/-! DEFINITION. What one command word does: `step : State → Word16 → State × Word32` (00_scope.md R13), with the
response kept in the state. -/

namespace Sys2Proof.Machine

/-- A command word is decoded and executed; a reserved word is NAKed at once (30_encoding.md R87). -/
def runWord (w : CmdWord) (s : State) : Host.Outcome State Fault Refusal :=
  match decode w with
  | .command i => exec i s
  | .reserved why => execReserved why s

end Sys2Proof.Machine
end

