-- ==== Sys2Proof/Machine/Step.lean ====
section
/-! DEFINITION. One step of CORE: one command word of the host's list (00_scope.md R13, 10_state.md R20). -/

namespace Sys2Proof.Machine

/-- One step. While the host has no command to send, CORE holds all its state unchanged (60_exceptions.md R249; log 4). -/
def step (s : State) : Host.Outcome State Fault Refusal :=
  match nextCommand s with
  | none => .next s
  | some w => runWord w (advanceHost s)

/-- The state in which the host sends the word whose bits are the low `nbits` bits of `w` next (log 3). -/
def State.withFetchWord (s : State) (nbits w : Nat) : State :=
  { s with hostProgram := placeCommand s.hostProgram s.hostPos (wordOfBits nbits w) }

end Sys2Proof.Machine
end

