-- ==== Sys2Proof/Machine/HostSide.lean ====
section
/-! DEFINITION. The host's side of the interface: the 17 public operations as CFG commands (10_state.md R24,
30_encoding.md R90), the pseudo-instructions (R89), a message as a command list (70_reset_and_hazards.md R263), and the
run of a command list (30_encoding.md R91). Nothing here is state of CORE. -/

namespace Sys2Proof.Machine

/-- NE's 17 public operations (R24). -/
inductive PublicOp where
  | encodeHexUpperCase
  | encodeHexLowerCase
  | decodeHex
  | encodeBase32UpperCase
  | encodeBase32LowerCase
  | encodeBase32UpperCaseNoPadding
  | encodeBase32LowerCaseNoPadding
  | decodeBase32
  | decodeBase32IgnorePadding
  | encodeBase64
  | encodeBase64NoPadding
  | decodeBase64
  | decodeBase64IgnorePadding
  | encodeBase64url
  | encodeBase64urlNoPadding
  | decodeBase64url
  | decodeBase64urlIgnorePadding
deriving DecidableEq, Repr

/-- The CFG command of a public operation (R24, R90). -/
def cfgOfOp : PublicOp → Instr
  | .encodeHexUpperCase => .cfg .hex .encode false false
  | .encodeHexLowerCase => .cfg .hex .encode true false
  | .decodeHex => .cfg .hex .decode false false
  | .encodeBase32UpperCase => .cfg .b32 .encode false false
  | .encodeBase32LowerCase => .cfg .b32 .encode true false
  | .encodeBase32UpperCaseNoPadding => .cfg .b32 .encode false true
  | .encodeBase32LowerCaseNoPadding => .cfg .b32 .encode true true
  | .decodeBase32 => .cfg .b32 .decode false false
  | .decodeBase32IgnorePadding => .cfg .b32 .decode false true
  | .encodeBase64 => .cfg .b64 .encode false false
  | .encodeBase64NoPadding => .cfg .b64 .encode false true
  | .decodeBase64 => .cfg .b64 .decode false false
  | .decodeBase64IgnorePadding => .cfg .b64 .decode false true
  | .encodeBase64url => .cfg .b64url .encode false false
  | .encodeBase64urlNoPadding => .cfg .b64url .encode false true
  | .decodeBase64url => .cfg .b64url .decode false false
  | .decodeBase64urlIgnorePadding => .cfg .b64url .decode false true

/-- `putbytes b0, …, bn−1` (R89). -/
def putBytes (input : List Byte) : List Instr := input.map .putb

/-- `puts "<text>"`: one `putc` per character code (R89). -/
def putChars (text : List Byte) : List Instr := text.map .putc

/-- `readout n` (R89). -/
def readout (n : Nat) : List Instr := (List.range n).map fun i => .rdout (BitVec.ofNat 12 i)

/-- A message: CFG, one PUTB or PUTC per element, END (R263). -/
def message (scheme : Scheme) (dir : Dir) (caseBit padBit : Bool) (input : List Byte) : List Instr :=
  .cfg scheme dir caseBit padBit
    :: ((match dir with | .encode => putBytes input | .decode => putChars input) ++ [.endMsg])

/-- The commands of `<op>(B)` up to `rdreg out_count` (R89). -/
def operationCommands (op : PublicOp) (input : List Byte) : List Instr :=
  match cfgOfOp op with
  | .cfg scheme dir caseBit padBit => message scheme dir caseBit padBit input ++ [.rdreg 4#4]
  | _ => []

/-- The readout of `<op>(B)`, which depends on END's response and on the response that gives n (R89, R215). -/
def operationReadout (endResponse countResponse : Response) : List Instr :=
  if endResponse.extractLsb' 0 2 = 2#2 then readout countResponse.toNat else []

/-- Run a command list, one command after the other (R91, R13). -/
def runCommands : List Instr → State → Host.Outcome State Fault Refusal
  | [], s => .next s
  | i :: rest, s =>
    match exec i s with
    | .next t => runCommands rest t
    | .fault r => .fault r
    | .refused r => .refused r

/-- OBUF[0..OUT_COUNT−1] (R51, R267). -/
def outputOf (s : State) : List (Option Byte) := (List.range s.outCount.toNat).map (Memory.read s.obuf)

end Sys2Proof.Machine
end

