-- ==== Sys2Proof/Machine/Reference.lean ====
section
/-! DEFINITION. What NE's two pure functions compute, written over whole messages as bit sequences, without ACC, CNT,
BITS, PADSEEN or OBUF. Claims compare a message run on CORE with these: the encode algorithm of 41_encode.md (its opening
quotation of NE §4.1), and the decode algorithm of 42_decode.md (R171 to R187). -/

namespace Sys2Proof.Machine

/-- The bits of a byte sequence, most significant bit of each byte first (20_memory.md R60). -/
def bitsOfBytes (bytes : List Byte) : List Bool := bytes.flatMap fun b => (List.range 8).map b.getMsbD

/-- The number whose bits are given, most significant first. -/
def numberOfBits (bits : List Bool) : Nat := bits.foldl (fun n b => 2 * n + b.toNat) 0

/-- ⌈a/b⌉. -/
def ceilDiv (a b : Nat) : Nat := (a + b - 1) / b

/-- Group `i` of k bits of a bit sequence, with zero bits on the right where the sequence ends inside it (R145). -/
def bitGroup (k : Nat) (bits : List Bool) (i : Nat) : Nat :=
  numberOfBits (((bits ++ List.replicate k false).drop (k * i)).take k)

/-- The data characters a message of n bytes encodes to: ⌈8·n/k⌉ (R144, R149). -/
def dataLength (sch : Scheme) (n : Nat) : Nat := ceilDiv (8 * n) (groupBits sch)

/-- The characters a message of n bytes encodes to, pads included (R149). -/
def encodedLength (sch : Scheme) (padBit : Bool) (n : Nat) : Nat :=
  if padBit = false ∧ hasPad sch = true then windowChars sch * ceilDiv n (chunkBytes sch) else dataLength sch n

/-- NE's encode of a whole message: the k-bit groups of its bits through the alphabet, then the pads (NE §4.1). -/
def refEncode (sch : Scheme) (caseBit padBit : Bool) (bytes : List Byte) : List Byte :=
  ((List.range (dataLength sch bytes.length)).map fun i =>
    encLUT sch caseBit (bitGroup (groupBits sch) (bitsOfBytes bytes) i))
    ++ List.replicate (encodedLength sch padBit bytes.length - dataLength sch bytes.length) padChar

/-- The k bits of a data character's value, most significant first (20_memory.md R61). -/
def bitsOfGroup (k : Nat) (v : BitVec 6) : List Bool := (List.range k).map fun i => v.getLsbD (k - 1 - i)

/-- NE's per-position rules over one window, left to right: the bits its data characters contribute, or the first
error (R171 to R176). -/
def refPositions (sch : Scheme) : Bool → List Byte → Except ErrReason (List Bool)
  | _, [] => .ok []
  | seen, ch :: rest =>
    match decLUT sch ch with
    | .pad => refPositions sch true rest
    | .data v =>
      if seen then .error .invalidPadding
      else match refPositions sch false rest with
        | .ok bits => .ok (bitsOfGroup (groupBits sch) v ++ bits)
        | .error e => .error e
    | .invalid => .error .invalidCharacter

/-- The whole bytes at the front of a bit sequence, most significant bit first (R183). -/
def bytesOfBits (bits : List Bool) : List Byte :=
  (List.range (bits.length / 8)).map fun i => BitVec.ofNat 8 (numberOfBits ((bits.drop (8 * i)).take 8))

/-- NE's end-of-window rules: a short window's bit count and its unused bits, then its bytes (R180 to R183). -/
def refWindowEnd (sch : Scheme) (bits : List Bool) : Except ErrReason (List Byte) :=
  if bits.length < windowBits sch then
    if bits.length ∈ validShort sch ∧ (bits.drop (8 * (bits.length / 8))).all (! ·) then .ok (bytesOfBits bits)
    else .error .invalidPadding
  else .ok (bytesOfBits bits)

/-- One window of at most W characters: a window the input cuts short is closed under Ignore and fails under Required
(R186). -/
def refWindow (sch : Scheme) (padBit : Bool) (window : List Byte) : Except ErrReason (List Byte) :=
  match refPositions sch false window with
  | .error e => .error e
  | .ok bits =>
    if window.length < windowChars sch ∧ padBit = false then .error .invalidCharacter else refWindowEnd sch bits

/-- The windows of a text, in order: the concatenation of their bytes, or the first error (R184). `fuel` bounds the
number of windows. -/
def refWindows (sch : Scheme) (padBit : Bool) : Nat → List Byte → Except ErrReason (List Byte)
  | 0, _ => .ok []
  | _ + 1, [] => .ok []
  | fuel + 1, ch :: rest =>
    match refWindow sch padBit ((ch :: rest).take (windowChars sch)) with
    | .error e => .error e
    | .ok bytes =>
      match refWindows sch padBit fuel ((ch :: rest).drop (windowChars sch)) with
      | .error e => .error e
      | .ok more => .ok (bytes ++ more)

/-- NE's decode of a whole text: Hex's odd length is checked "before any character is consumed" (R187). -/
def refDecode (sch : Scheme) (padBit : Bool) (text : List Byte) : Except ErrReason (List Byte) :=
  if sch = .hex ∧ text.length % 2 = 1 then .error .oddLength else refWindows sch padBit text.length text

end Sys2Proof.Machine
end

