-- ==== Sys2Proof/Safety.lean ====
section
/-! DEFINITION. The terms claims are stated in: the invariants that hold between any two commands (10_state.md R39),
the causes of a NAK (60_exceptions.md R239), and the two relations that say what no command can observe (R37, R177). -/

namespace Sys2Proof.Machine

/-- R39 invariant 1: ACC[39:WB] = 0. -/
def AccInWindow (s : State) : Prop := s.acc.toNat < 2 ^ windowBits (schemeOf s.config)

/-- R39 invariant 2. -/
def WindowClearAtRest (s : State) : Prop :=
  s.msgState ≠ .active → s.acc = 0#40 ∧ s.cnt = 0#4 ∧ s.bits = 0#6 ∧ s.padSeen = false

/-- R39 invariant 3; BITS and PADSEEN are decode only (R35, R36). -/
def EncodeChunkSound (s : State) : Prop :=
  s.msgState = .active → dirOf s.config = .encode →
    s.cnt.toNat < chunkBytes (schemeOf s.config)
      ∧ s.acc.toNat % 2 ^ (windowBits (schemeOf s.config) - 8 * s.cnt.toNat) = 0
      ∧ s.bits = 0#6 ∧ s.padSeen = false

/-- R39 invariant 4, with `d` the number of data positions. -/
def DecodeWindowSound (s : State) : Prop :=
  s.msgState = .active → dirOf s.config = .decode → s.errReason = 0#3 →
    s.cnt.toNat < windowChars (schemeOf s.config)
      ∧ ∃ d : Nat, d ≤ s.cnt.toNat
        ∧ s.bits.toNat = groupBits (schemeOf s.config) * d
        ∧ (s.padSeen = true ↔ d < s.cnt.toNat)
        ∧ s.acc.toNat % 2 ^ (windowBits (schemeOf s.config) - s.bits.toNat) = 0

/-- R39 invariant 5. -/
def OutcomeSound (s : State) : Prop :=
  (s.msgState = .doneErr → s.outCount = 0#13 ∧ s.errReason ≠ 0#3) ∧ (s.msgState = .doneOk → s.errReason = 0#3)

/-- R39 invariant 6. -/
def CountSound (s : State) : Prop :=
  s.outCount.toNat ≤ s.depth.toNat
    ∧ (s.ovf = true → s.outCount = s.depth ∨ (s.msgState = .doneErr ∧ s.outCount = 0#13))

/-- ERR_REASON's values (R27, R28, 41_encode.md R148): codes 5 to 7 are never written, a message in progress holds 0, 1 or
2, an encode message in progress holds 0, and in IDLE it is 0. -/
def ReasonSound (s : State) : Prop :=
  s.errReason.toNat ≤ 4
    ∧ (s.msgState = .active → s.errReason.toNat ≤ 2)
    ∧ (s.msgState = .active → dirOf s.config = .encode → s.errReason = 0#3)
    ∧ (s.msgState = .idle → s.errReason = 0#3)

/-- CONFIG holds one of the 17 legal configurations (R24). -/
def ConfigLegal (s : State) : Prop :=
  legalConfig (schemeOf s.config) (dirOf s.config) (caseOf s.config) (padOf s.config) = true

/-- OBUF is in canonical form, every entry below OUT_COUNT has been written (R51), and no entry lies outside
0..OBUF_DEPTH−1 (R50). -/
def ObufSound (s : State) : Prop :=
  Memory.wf s.obuf = true
    ∧ (∀ a, a < s.outCount.toNat → (Memory.read s.obuf a).isSome = true)
    ∧ (∀ a, (Memory.read s.obuf a).isSome = true → a < s.depth.toNat)

/-- 1 ≤ OBUF_DEPTH ≤ 4096 (00_scope.md R10). -/
def DepthLegal (s : State) : Prop := 1 ≤ s.depth.toNat ∧ s.depth.toNat ≤ Config.maxDepth

/-- The invariants of R39, with those of R10, R24, R28, R35, R50 and R51. -/
structure State.Inv (s : State) : Prop where
  accInWindow : AccInWindow s
  windowClearAtRest : WindowClearAtRest s
  encodeChunk : EncodeChunkSound s
  decodeWindow : DecodeWindowSound s
  outcome : OutcomeSound s
  count : CountSound s
  reason : ReasonSound s
  configLegal : ConfigLegal s
  bitsInWindow : s.bits.toNat ≤ windowBits (schemeOf s.config)
  obuf : ObufSound s
  depth : DepthLegal s

/-- The complete list of NAK causes of a command that decodes (60_exceptions.md R239). A reserved word is NAKed always. -/
def NakCause (s : State) : Instr → Prop
  | .nop => False
  | .cfg scheme dir caseBit padBit =>
    (padBit = true ∧ scheme = .hex) ∨ (caseBit = true ∧ dir = .decode)
      ∨ (caseBit = true ∧ (scheme = .b64 ∨ scheme = .b64url))
  | .putb _ => s.msgState ≠ .active ∨ s.config.getLsbD 2 = true
  | .putc _ => s.msgState ≠ .active ∨ s.config.getLsbD 2 = false
  | .endMsg => s.msgState ≠ .active
  | .rdreg reg => 8 ≤ reg.toNat
  | .rdout addr => s.msgState ≠ .doneOk ∨ s.outCount.toNat ≤ addr.toNat
  | .srst => False

/-- The words that decode to no command (30_encoding.md R84, R85): a reserved opcode, or a nonzero zero field. -/
def ReservedWord (w : CmdWord) : Prop :=
  8 ≤ (w.extractLsb' 12 4).toNat
    ∨ ((w.extractLsb' 12 4 = 0#4 ∨ w.extractLsb' 12 4 = 4#4 ∨ w.extractLsb' 12 4 = 7#4) ∧ w.extractLsb' 0 12 ≠ 0#12)
    ∨ (w.extractLsb' 12 4 = 1#4 ∧ w.extractLsb' 5 7 ≠ 0#7)
    ∨ ((w.extractLsb' 12 4 = 2#4 ∨ w.extractLsb' 12 4 = 3#4) ∧ w.extractLsb' 8 4 ≠ 0#4)
    ∨ (w.extractLsb' 12 4 = 5#4 ∧ w.extractLsb' 4 8 ≠ 0#8)

/-- The state a NAK leaves (R238), written out. -/
def rejected (s : State) : State :=
  { s with ill := true, response := some (0x80000000#32 ||| (statusOf { s with ill := true }).setWidth 32) }

/-- The state with STATUS as its response (30_encoding.md R86), written out. -/
def answered (s : State) : State := { s with response := some ((statusOf s).setWidth 32) }

/-- The values that power-on reset and SRST leave (10_state.md R38); OBUF is unspecified, so nothing is said of it. -/
def HasResetValues (depth : BitVec 13) (t : State) : Prop :=
  t.config = 0x00#5 ∧ t.msgState = .idle ∧ (statusOf t).getLsbD 2 = false ∧ t.ovf = false ∧ t.ill = false
    ∧ t.errReason = 0#3 ∧ t.outCount = 0#13 ∧ t.inCount = 0#31
    ∧ t.acc = 0#40 ∧ t.cnt = 0#4 ∧ t.bits = 0#6 ∧ t.padSeen = false
    ∧ readReg 0#4 t = some 0x52445831#31 ∧ readReg 6#4 t = some (depth.setWidth 31)
    ∧ readReg 7#4 t = some 0x0214#31

/-- The characters of a chunk of b bytes in ACC, with the slices of R143 written as quotients: the data characters, then
the pads of padding Include. -/
def chunkText (config : BitVec 5) (acc : Accum) (b : Nat) : List Byte :=
  let sch := schemeOf config
  let n := ceilDiv (8 * b) (groupBits sch)
  ((List.range n).map fun i =>
      encLUT sch (config.getLsbD 3)
        (acc.toNat / 2 ^ (windowBits sch - groupBits sch * (i + 1)) % 2 ^ groupBits sch))
    ++ (if config.getLsbD 4 = false ∧ hasPad sch = true then List.replicate (windowChars sch - n) 0x3D#8 else [])

/-- `t` is `s` after PUTC consumed one window position (42_decode.md R173, R174), before a window close: a pad sets
PADSEEN, a data character with no pad before it in the window enters ACC. -/
def PositionConsumed (s : State) (ch : Byte) (t : State) : Prop :=
  (decLUT (schemeOf s.config) ch = .pad
      ∧ t = { s with inCount := s.inCount + 1#31, padSeen := true, cnt := s.cnt + 1#4 })
    ∨ ∃ v : BitVec 6, decLUT (schemeOf s.config) ch = .data v ∧ s.padSeen = false
      ∧ t = { s with
          inCount := s.inCount + 1#31
          acc := s.acc ||| (v.setWidth 40 <<<
            (windowBits (schemeOf s.config) - groupBits (schemeOf s.config) * (s.cnt.toNat + 1)))
          bits := s.bits + BitVec.ofNat 6 (groupBits (schemeOf s.config))
          cnt := s.cnt + 1#4 }

/-- A short window that the padding validator rejects (R181, R182). -/
def WindowRejected (s : State) : Prop :=
  s.bits.toNat < windowBits (schemeOf s.config)
    ∧ (s.bits.toNat ∉ validShort (schemeOf s.config)
      ∨ s.acc.toNat % 2 ^ (windowBits (schemeOf s.config) - 8 * (s.bits.toNat / 8)) ≠ 0)

/-- The bytes of a window that passes: CB for a full window, ⌊BITS/8⌋ for a short one, most significant first (R183). -/
def windowText (s : State) : List Byte :=
  let sch := schemeOf s.config
  let n := if s.bits.toNat < windowBits sch then s.bits.toNat / 8 else chunkBytes sch
  (List.range n).map fun i => BitVec.ofNat 8 (s.acc.toNat / 2 ^ (windowBits sch - 8 * (i + 1)))

/-- The state END leaves once the flush has given `f` and the final reason is `r` (40_control.md R113, R116). -/
def closedWith (r : BitVec 3) (f : State) : State :=
  { f with
    errReason := r
    msgState := if r = 0#3 then .doneOk else .doneErr
    outCount := if r = 0#3 then f.outCount else 0#13
    acc := 0#40
    cnt := 0#4
    bits := 0#6
    padSeen := false }

/-- Two states that differ at most in OBUF entries at addresses ≥ OUT_COUNT (R37). -/
def AgreeBelowCount (s t : State) : Prop :=
  t = { s with obuf := t.obuf } ∧ ∀ a, a < s.outCount.toNat → Memory.read t.obuf a = Memory.read s.obuf a

/-- Two states of a decode message with a latched error that differ at most in ACC, POS, BITS and PADSEEN (R177). -/
def AgreeUpToWindow (s t : State) : Prop :=
  t = { s with acc := t.acc, cnt := t.cnt, bits := t.bits, padSeen := t.padSeen }
    ∧ s.msgState = .active ∧ dirOf s.config = .decode ∧ s.errReason ≠ 0#3

end Sys2Proof.Machine
end

