-- ==== Sys2Proof/Certificates/Slice0/Obligations.lean ====
section
/-! DEFINITION. The statements for the provers. Each docstring names the rules of spec/ it formalises. -/

open Sys2Proof Sys2Proof.Machine

/-- Power-on reset and SRST leave every register and hidden field at its reset value. States R38. -/
def Obligations.ResetAndSrstGiveResetValues : Prop :=
  (∀ d : BitVec 13, HasResetValues d (State.resetWith d))
    ∧ ∀ s : State, ∃ t, exec .srst s = .next t ∧ HasResetValues s.depth t ∧ t.response = some 0x00000000#32

/-- Decoding the word of any command gives the command back. Rests on 30_encoding.md R81, 30_encoding.md R83,
30_encoding.md R87. -/
def Obligations.DecodeOfEncodeIsIdentity : Prop :=
  ∀ i : Instr, decode (encode i) = .command i

/-- A word that decodes to a command is that command's only word. Rests on 30_encoding.md R81, 30_encoding.md R84,
30_encoding.md R87. -/
def Obligations.EncodeOfDecodeIsIdentity : Prop :=
  ∀ (w : CmdWord) (i : Instr), decode w = .command i → encode i = w

/-- A word decodes to opcode X exactly when (w & mask) = match; the rows are disjoint; a word of no row is NAKed.
States R82. -/
def Obligations.DecoderFollowsOpcodeMap : Prop :=
  (∀ (w : CmdWord) (r : OpcodeRow), r ∈ opcodeMap →
      (w &&& r.mask = r.pattern ↔ ∃ i, decode w = .command i ∧ mnemonicOf i = r.mnemonic))
    ∧ (∀ (w : CmdWord) (r q : OpcodeRow), r ∈ opcodeMap → q ∈ opcodeMap →
        w &&& r.mask = r.pattern → w &&& q.mask = q.pattern → r = q)
    ∧ (∀ (w : CmdWord) (s : State), (∀ r ∈ opcodeMap, w &&& r.mask ≠ r.pattern) → runWord w s = .next (rejected s))

/-- Words written out from the formats decode to the commands they stand for. Rests on 30_encoding.md R81,
30_encoding.md R88, 95_test_vectors.md section 8. -/
def Obligations.SampleWordsDecode : Prop :=
  decode 0x0000#16 = .command .nop
    ∧ decode 0x1017#16 = .command (.cfg .b64url .decode false true)
    ∧ decode 0x1019#16 = .command (.cfg .b32 .encode true true)
    ∧ decode 0x2048#16 = .command (.putb 0x48#8)
    ∧ decode 0x3053#16 = .command (.putc 0x53#8)
    ∧ decode 0x4000#16 = .command .endMsg
    ∧ decode 0x5006#16 = .command (.rdreg 6#4)
    ∧ decode 0x6FFF#16 = .command (.rdout 0xFFF#12)
    ∧ decode 0x7000#16 = .command .srst
    ∧ decode 0x8000#16 = .reserved (.opcode 8#4)
    ∧ decode 0x4001#16 = .reserved (.zeroField 4#4)

/-- When the host's next word decodes to a command, a step is exec of that command after the host's position moved
by one. Rests on 00_scope.md R13, 10_state.md R20. -/
def Obligations.StepRunsDecodedCommand : Prop :=
  ∀ (s : State) (w : CmdWord) (i : Instr), s.hostProgram[s.hostPos]? = some w → decode w = .command i →
    step s = exec i { s with hostPos := s.hostPos + 1 }

/-- A step on a reserved word is a NAK, and a step with no word left leaves the state unchanged (log 4). That a step
with no word left is a next state that changes nothing is the model's reading (log 4, DEDUCED from R249). Rests
on 30_encoding.md R87, 60_exceptions.md R249, 70_reset_and_hazards.md R267. -/
def Obligations.StepOnReservedWordAndOnNoWord : Prop :=
  (∀ (s : State) (w : CmdWord) (why : Reserved), s.hostProgram[s.hostPos]? = some w → decode w = .reserved why →
      step s = .next (rejected { s with hostPos := s.hostPos + 1 }))
    ∧ ∀ s : State, s.hostProgram[s.hostPos]? = none → step s = .next s

/-- No state is stuck: every step answers a next state, and moves the host's position by at most one command (no
word left: log 4). That a step with no word left is a next state that changes nothing is the model's reading
(log 4, DEDUCED from R249). Rests on 10_state.md R20, 60_exceptions.md R240, 60_exceptions.md R249,
93_implementation_defined.md section 1. -/
def Obligations.EveryStepAnswersNext : Prop :=
  ∀ s : State, ∃ t, step s = .next t ∧ t.hostProgram = s.hostProgram
    ∧ t.hostPos = if s.hostPos < s.hostProgram.length then s.hostPos + 1 else s.hostPos

/-- A command is NAKed on the listed causes and on no other, and a word is reserved exactly when the list says so.
States R239. -/
def Obligations.NakExactlyOnListedCauses : Prop :=
  (∀ (s : State) (i : Instr), NakCause s i → exec i s = .next (rejected s))
    ∧ (∀ (s : State) (i : Instr), ¬ NakCause s i →
        ∃ t r, exec i s = .next t ∧ t.response = some r ∧ r.getLsbD 31 = false)
    ∧ (∀ w : CmdWord, ReservedWord w ↔ ∃ why, decode w = .reserved why)
    ∧ (∀ (s : State) (w : CmdWord), ReservedWord w → runWord w s = .next (rejected s))

/-- STATUS.ILL after a command is 1 exactly when the command was NAKed or ILL was 1 and the command is not SRST.
Rests on 10_state.md R25, 60_exceptions.md R238, 60_exceptions.md R241. -/
def Obligations.IllIsSetByNakAndClearedBySrstOnly : Prop :=
  (∀ (s : State) (i : Instr), ∃ t, exec i s = .next t ∧ (t.ill = true ↔ i ≠ .srst ∧ (s.ill = true ∨ NakCause s i)))
    ∧ ∀ (s : State) (w : CmdWord), ReservedWord w → ∃ t, runWord w s = .next t ∧ t.ill = true

/-- STATUS.STATE moves only by CFG, END and SRST, as the table says. States R26. -/
def Obligations.StateMovesOnlyAsListed : Prop :=
  (∀ (s : State) (i : Instr), ∃ t, exec i s = .next t ∧
      t.msgState =
        (match i with
        | .cfg scheme dir caseBit padBit =>
          if legalConfig scheme dir caseBit padBit = true then .active else s.msgState
        | .endMsg =>
          if s.msgState = .active then (if t.errReason = 0#3 then .doneOk else .doneErr) else s.msgState
        | .srst => .idle
        | .nop | .putb _ | .putc _ | .rdreg _ | .rdout _ => s.msgState))
    ∧ (∀ (s : State) (w : CmdWord), ReservedWord w → ∃ t, runWord w s = .next t ∧ t.msgState = s.msgState)
    ∧ ∀ d, (State.resetWith d).msgState = .idle

/-- CONFIG is written by an accepted CFG with its operand bits [4:0] and by SRST with 0, and RDREG 1 returns it.
States R22. -/
def Obligations.ConfigWrittenByCfgAndResetOnly : Prop :=
  (∀ (s : State) (i : Instr), ∃ t, exec i s = .next t ∧
      t.config =
        (match i with
        | .cfg scheme dir caseBit padBit =>
          if legalConfig scheme dir caseBit padBit = true
          then (encode (.cfg scheme dir caseBit padBit)).extractLsb' 0 5 else s.config
        | .srst => 0x00#5
        | .nop | .putb _ | .putc _ | .endMsg | .rdreg _ | .rdout _ => s.config))
    ∧ (∀ (s : State) (w : CmdWord), ReservedWord w → ∃ t, runWord w s = .next t ∧ t.config = s.config)
    ∧ (∀ d, (State.resetWith d).config = 0x00#5)
    ∧ ∀ s : State, exec (.rdreg 1#4) s = .next { s with response := some (s.config.setWidth 32) }

/-- IN_COUNT counts accepted PUTB and PUTC modulo 2^31, also after an error, and only its parity matters. States
R30. -/
def Obligations.InCountCountsAcceptedInput : Prop :=
  (∀ (s : State) (i : Instr), ∃ t, exec i s = .next t ∧
      t.inCount.toNat =
        (match i with
        | .cfg scheme dir caseBit padBit =>
          if legalConfig scheme dir caseBit padBit = true then 0 else s.inCount.toNat
        | .putb _ =>
          if s.msgState = .active ∧ dirOf s.config = .encode then (s.inCount.toNat + 1) % 2 ^ 31 else s.inCount.toNat
        | .putc _ =>
          if s.msgState = .active ∧ dirOf s.config = .decode then (s.inCount.toNat + 1) % 2 ^ 31 else s.inCount.toNat
        | .srst => 0
        | .nop | .endMsg | .rdreg _ | .rdout _ => s.inCount.toNat))
    ∧ (∀ d, (State.resetWith d).inCount = 0#31)
    ∧ ∀ (s t : State) (i : Instr) (n : BitVec 31), n.getLsbD 0 = s.inCount.getLsbD 0 → i ≠ .rdreg 5#4 →
        exec i s = .next t →
        ∃ m : BitVec 31, m.getLsbD 0 = t.inCount.getLsbD 0
          ∧ exec i { s with inCount := n } = .next { t with inCount := m }

/-- STATUS has its fields in place, and ERRL always equals (ERR_REASON ≠ 0). States R27. -/
def Obligations.StatusErrlFollowsErrReason : Prop :=
  (∀ s : State,
      (statusOf s).extractLsb' 0 2 =
          (match s.msgState with | .idle => 0#2 | .active => 1#2 | .doneOk => 2#2 | .doneErr => 3#2)
        ∧ ((statusOf s).getLsbD 2 = true ↔ s.errReason ≠ 0#3)
        ∧ (statusOf s).getLsbD 3 = s.ovf ∧ (statusOf s).getLsbD 4 = s.ill)
    ∧ ∀ s : State, s.Inv →
      (s.msgState = .doneErr → (statusOf s).getLsbD 2 = true)
        ∧ (s.msgState = .idle ∨ s.msgState = .doneOk → (statusOf s).getLsbD 2 = false)

/-- Every command and reserved word gets the response the table gives it. States R86. -/
def Obligations.ResponseOfEveryCommand : Prop :=
  (∀ (s : State) (i : Instr), ¬ NakCause s i → ∃ t r, exec i s = .next t ∧ t.response = some r ∧
      r.getLsbD 31 = false ∧
      (match i with
      | .rdreg reg => ∃ v, readReg reg s = some v ∧ r = v.setWidth 32
      | .rdout addr => r = (obufEntry s.obuf addr.toNat).setWidth 32
      | .nop | .cfg _ _ _ _ | .putb _ | .putc _ | .endMsg | .srst => r = (statusOf t).setWidth 32))
    ∧ (∀ (s : State) (i : Instr), NakCause s i → ∃ t, exec i s = .next t
        ∧ t.response = some (0x80000000#32 ||| (statusOf t).setWidth 32) ∧ (statusOf t).getLsbD 4 = true)
    ∧ ∀ (s : State) (w : CmdWord), ReservedWord w → ∃ t, runWord w s = .next t
        ∧ t.response = some (0x80000000#32 ||| (statusOf t).setWidth 32) ∧ (statusOf t).getLsbD 4 = true

/-- NOP responds STATUS and changes no state, and a NOP word with a nonzero zero field is NAKed. States R110. -/
def Obligations.NopOnlyResponds : Prop :=
  (∀ s : State, exec .nop s = .next (answered s))
    ∧ ∀ (s : State) (w : CmdWord), w.extractLsb' 12 4 = 0#4 → w.extractLsb' 0 12 ≠ 0#12 →
        runWord w s = .next (rejected s)

/-- A legal CFG starts a fresh message in every state; an illegal one, or one with a nonzero zero field, is NAKed.
States R111. -/
def Obligations.CfgStartsMessageOrIsNaked : Prop :=
  (∀ (s : State) (scheme : Scheme) (dir : Dir) (caseBit padBit : Bool),
      legalConfig scheme dir caseBit padBit = true →
      exec (.cfg scheme dir caseBit padBit) s = .next
        { s with
          config := (encode (.cfg scheme dir caseBit padBit)).extractLsb' 0 5
          msgState := .active
          errReason := 0#3
          ovf := false
          outCount := 0#13
          inCount := 0#31
          acc := 0#40
          cnt := 0#4
          bits := 0#6
          padSeen := false
          response := some (0x01#32 ||| ((BitVec.ofBool s.ill).setWidth 32 <<< 4)) })
    ∧ (∀ (s : State) (scheme : Scheme) (dir : Dir) (caseBit padBit : Bool),
        legalConfig scheme dir caseBit padBit = false →
        exec (.cfg scheme dir caseBit padBit) s = .next (rejected s))
    ∧ ∀ (s : State) (w : CmdWord), w.extractLsb' 12 4 = 1#4 → w.extractLsb' 5 7 ≠ 0#7 →
        runWord w s = .next (rejected s)

/-- CFG is legal for exactly the 17 words of the table, one per public operation. Rests on 10_state.md R24,
40_control.md R112, 30_encoding.md R90. -/
def Obligations.LegalConfigurationsAreTheSeventeen : Prop :=
  (∀ (scheme : Scheme) (dir : Dir) (caseBit padBit : Bool),
      (legalConfig scheme dir caseBit padBit = true ↔
        (scheme = .hex → padBit = false)
          ∧ (caseBit = true → dir = .encode ∧ (scheme = .hex ∨ scheme = .b32)))
      ∧ (legalConfig scheme dir caseBit padBit = true ↔ encode (.cfg scheme dir caseBit padBit) ∈
          [0x1000#16, 0x1008#16, 0x1004#16, 0x1001#16, 0x1009#16, 0x1011#16, 0x1019#16, 0x1005#16, 0x1015#16,
            0x1002#16, 0x1012#16, 0x1006#16, 0x1016#16, 0x1003#16, 0x1013#16, 0x1007#16, 0x1017#16]))
    ∧ [PublicOp.encodeHexUpperCase, .encodeHexLowerCase, .decodeHex, .encodeBase32UpperCase, .encodeBase32LowerCase,
        .encodeBase32UpperCaseNoPadding, .encodeBase32LowerCaseNoPadding, .decodeBase32, .decodeBase32IgnorePadding,
        .encodeBase64, .encodeBase64NoPadding, .decodeBase64, .decodeBase64IgnorePadding, .encodeBase64url,
        .encodeBase64urlNoPadding, .decodeBase64url, .decodeBase64urlIgnorePadding].map (fun op => encode (cfgOfOp op)) =
      [0x1000#16, 0x1008#16, 0x1004#16, 0x1001#16, 0x1009#16, 0x1011#16, 0x1019#16, 0x1005#16, 0x1015#16,
        0x1002#16, 0x1012#16, 0x1006#16, 0x1016#16, 0x1003#16, 0x1013#16, 0x1007#16, 0x1017#16]

/-- END flushes by direction, computes the final reason in its priority order, commits all or nothing and clears the
window. States R113, R115, R116, R185. -/
def Obligations.EndClosesMessage : Prop :=
  (∀ s : State, s.msgState = .active →
      let sch := schemeOf s.config
      let f : State :=
        if s.config.getLsbD 2 = false then
          (if s.cnt = 0#4 then s else emitAll (chunkText s.config s.acc s.cnt.toNat) s)
        else if s.errReason ≠ 0#3 ∨ s.cnt = 0#4 ∨ sch = .hex then s
        else if s.config.getLsbD 4 = false then { s with errReason := 1#3 }
        else windowClose s
      let r : BitVec 3 :=
        if s.config.getLsbD 2 = true ∧ sch = .hex ∧ s.inCount.getLsbD 0 = true then 3#3
        else if f.errReason = 0#3 ∧ f.ovf = true then 4#3 else f.errReason
      exec .endMsg s = .next (answered (closedWith r f)))
    ∧ (∀ s : State, s.msgState ≠ .active → exec .endMsg s = .next (rejected s))
    ∧ ∀ (s : State) (w : CmdWord), w.extractLsb' 12 4 = 4#4 → w.extractLsb' 0 12 ≠ 0#12 →
        runWord w s = .next (rejected s)

/-- END reports ODD_LENGTH exactly for a HEX decode message with an odd number of characters, whatever else was
latched. States R233. -/
def Obligations.OddLengthIsHexDecodeWithOddInput : Prop :=
  (∀ s : State, s.msgState = .active → s.config = 0x04#5 → s.inCount.getLsbD 0 = true →
      ∃ t, exec .endMsg s = .next t ∧ t.msgState = .doneErr ∧ t.errReason = 3#3)
    ∧ (∀ s t : State, s.msgState = .active → s.errReason.toNat ≤ 2 → ConfigLegal s → exec .endMsg s = .next t →
        t.errReason = 3#3 → s.config = 0x04#5 ∧ s.inCount.getLsbD 0 = true)
    ∧ ∀ (s : State) (text : List Byte), text.length % 2 = 1 →
        ∃ t, runCommands (message .hex .decode false false text) s = .next t ∧ t.msgState = .doneErr
          ∧ t.errReason = 3#3

/-- RDOUT is NAKed outside DONE_OK, and a message that ends in DONE_ERR leaves OUT_COUNT 0 and no entry readable.
States R53. -/
def Obligations.FailedMessageIsUnreadable : Prop :=
  (∀ (s : State) (addr : BitVec 12), s.msgState ≠ .doneOk → exec (.rdout addr) s = .next (rejected s))
    ∧ ∀ s t : State, s.msgState = .active → exec .endMsg s = .next t → t.msgState = .doneErr →
        t.outCount = 0#13 ∧ ∀ addr, exec (.rdout addr) t = .next (rejected t)

/-- PUTB inserts its byte below the earlier ones, counts it, and emits and clears the chunk it fills; otherwise it
is NAKed. States R141. -/
def Obligations.PutbPushesByteAndEmitsFullChunk : Prop :=
  (∀ (s : State) (data : BitVec 8), s.msgState = .active → s.config.getLsbD 2 = false →
      let sch := schemeOf s.config
      let t : State := { s with
        inCount := s.inCount + 1#31
        acc := s.acc ||| (data.setWidth 40 <<< (windowBits sch - 8 * (s.cnt.toNat + 1)))
        cnt := s.cnt + 1#4 }
      (s.cnt.toNat + 1 ≠ chunkBytes sch → exec (.putb data) s = .next (answered t))
        ∧ (s.cnt.toNat + 1 = chunkBytes sch →
            exec (.putb data) s = .next (answered
              { emitAll (chunkText s.config t.acc (chunkBytes sch)) t with acc := 0#40, cnt := 0#4 })))
    ∧ (∀ (s : State) (data : BitVec 8), s.msgState ≠ .active ∨ s.config.getLsbD 2 = true →
        exec (.putb data) s = .next (rejected s))
    ∧ ∀ (s : State) (w : CmdWord), w.extractLsb' 12 4 = 2#4 → w.extractLsb' 8 4 ≠ 0#4 →
        runWord w s = .next (rejected s)

/-- Emit stores at OUT_COUNT and counts while there is room, and drops the value and sets OVF when there is none.
Rests on 20_memory.md R51, 20_memory.md R52. -/
def Obligations.EmitStoresOrDrops : Prop :=
  (∀ (x : Byte) (s : State), s.outCount.toNat < s.depth.toNat →
      emit x s = { s with obuf := (emit x s).obuf, outCount := (emit x s).outCount }
        ∧ (emit x s).outCount.toNat = s.outCount.toNat + 1
        ∧ Memory.read (emit x s).obuf s.outCount.toNat = some x
        ∧ ∀ a, a ≠ s.outCount.toNat → Memory.read (emit x s).obuf a = Memory.read s.obuf a)
    ∧ ∀ (x : Byte) (s : State), s.depth.toNat ≤ s.outCount.toNat → emit x s = { s with ovf := true }

/-- A chunk of b bytes emits ⌈8·b/k⌉ data characters, and W − ⌈8·b/k⌉ pads when padding is Include. States R144. -/
def Obligations.CharactersPerChunkTable : Prop :=
  ∀ (acc : Accum) (caseBit padBit : Bool),
    let data (sch : Scheme) (b : Nat) := (chunkDataChars (configBits sch .encode caseBit padBit) acc b).length
    let pads (sch : Scheme) (b : Nat) := (chunkPads (configBits sch .encode caseBit padBit) b).length
    ([1].map (data .hex) = [2] ∧ [1, 2, 3, 4, 5].map (data .b32) = [2, 4, 5, 7, 8]
      ∧ [1, 2, 3].map (data .b64) = [2, 3, 4] ∧ [1, 2, 3].map (data .b64url) = [2, 3, 4])
    ∧ (padBit = false → [1].map (pads .hex) = [0] ∧ [1, 2, 3, 4, 5].map (pads .b32) = [6, 4, 3, 1, 0]
      ∧ [1, 2, 3].map (pads .b64) = [2, 1, 0] ∧ [1, 2, 3].map (pads .b64url) = [2, 1, 0])
    ∧ (padBit = true → ∀ sch b, pads sch b = 0)

/-- The last group of a short chunk holds the remaining data bits in its top bits and zeros below them. States R145. -/
def Obligations.PartialGroupIsZeroFilledOnTheRight : Prop :=
  (∀ (sch : Scheme) (acc : Accum) (b : Nat), 1 ≤ b → b < chunkBytes sch → acc.toNat < 2 ^ windowBits sch →
      acc.toNat % 2 ^ (windowBits sch - 8 * b) = 0 → 8 * b % groupBits sch ≠ 0 →
      let n := ceilDiv (8 * b) (groupBits sch)
      let r := 8 * b - groupBits sch * (n - 1)
      1 ≤ r ∧ r ≤ groupBits sch - 1
        ∧ accGroup sch acc (n - 1) =
          (acc.toNat / 2 ^ (windowBits sch - 8 * b) % 2 ^ r) * 2 ^ (groupBits sch - r))
    ∧ ∀ sch : Scheme, 8 * chunkBytes sch % groupBits sch = 0

/-- The six alphabets of the encoder ROM are the strings of the spec (their order: log 10, PRESUMED). The order of
the characters is R56's, which the spec itself marks as general knowledge (G1): log 10, PRESUMED, unsafe for
this statement. Rests on 20_memory.md R56, 93_implementation_defined.md G1. -/
def Obligations.AlphabetsAreAsListed : Prop :=
  let codes (cs : List Char) : List Byte := cs.map fun c => BitVec.ofNat 8 c.toNat
  let upper : List Char := ['A', 'B', 'C', 'D', 'E', 'F', 'G', 'H', 'I', 'J', 'K', 'L', 'M',
    'N', 'O', 'P', 'Q', 'R', 'S', 'T', 'U', 'V', 'W', 'X', 'Y', 'Z']
  let lower : List Char := ['a', 'b', 'c', 'd', 'e', 'f', 'g', 'h', 'i', 'j', 'k', 'l', 'm',
    'n', 'o', 'p', 'q', 'r', 's', 't', 'u', 'v', 'w', 'x', 'y', 'z']
  let digits : List Char := ['0', '1', '2', '3', '4', '5', '6', '7', '8', '9']
  (List.range 16).map (encLUT .hex false) = codes (digits ++ ['A', 'B', 'C', 'D', 'E', 'F'])
    ∧ (List.range 16).map (encLUT .hex true) = codes (digits ++ ['a', 'b', 'c', 'd', 'e', 'f'])
    ∧ (List.range 32).map (encLUT .b32 false) = codes (upper ++ ['2', '3', '4', '5', '6', '7'])
    ∧ (List.range 32).map (encLUT .b32 true) = codes (lower ++ ['2', '3', '4', '5', '6', '7'])
    ∧ (List.range 64).map (encLUT .b64 false) = codes (upper ++ lower ++ digits ++ ['+', '/'])
    ∧ (List.range 64).map (encLUT .b64url false) = codes (upper ++ lower ++ digits ++ ['-', '_'])

/-- DecLUT gives DATA(v) exactly for the characters of value v, PAD exactly for = outside HEX, and INVALID
otherwise. Rests on 20_memory.md R57, 20_memory.md R58. -/
def Obligations.DecodeMapsInvertTheAlphabets : Prop :=
  ∀ (sch : Scheme) (ch : Byte),
    (∀ v : BitVec 6, decLUT sch ch = .data v ↔
        v.toNat < 2 ^ groupBits sch
          ∧ (encLUT sch false v.toNat = ch ∨ ((sch = .hex ∨ sch = .b32) ∧ encLUT sch true v.toNat = ch)))
      ∧ (decLUT sch ch = .pad ↔ sch ≠ .hex ∧ ch = 0x3D#8)
      ∧ (0x80 ≤ ch.toNat → decLUT sch ch = .invalid)

/-- CONFIG.CASE changes only letters, and B64 and B64URL differ only at values 62 and 63. Rests on 41_encode.md
R150, 20_memory.md R56. -/
def Obligations.CaseChangesLettersOnly : Prop :=
  (∀ v : Nat, v < 16 → encLUT .hex true v =
      if (encLUT .hex false v).toNat < 0x40 then encLUT .hex false v else encLUT .hex false v + 0x20#8)
    ∧ (∀ v : Nat, v < 32 → encLUT .b32 true v =
        if (encLUT .b32 false v).toNat < 0x40 then encLUT .b32 false v else encLUT .b32 false v + 0x20#8)
    ∧ ∀ v : Nat, v < 64 → (encLUT .b64 false v = encLUT .b64url false v ↔ v < 62)

/-- The scheme table: k, CB, W, WB, HASPAD, with 8·CB = k·W = WB, and the valid short-window bit counts. Rests on
00_scope.md R7, 00_scope.md R8. -/
def Obligations.SchemeConstantsAndShortWindows : Prop :=
  (([Scheme.hex, .b32, .b64, .b64url].map fun s => (groupBits s, chunkBytes s, windowChars s, windowBits s, hasPad s)) =
      [(4, 1, 2, 8, false), (5, 5, 8, 40, true), (6, 3, 4, 24, true), (6, 3, 4, 24, true)])
    ∧ ∀ s : Scheme,
      8 * chunkBytes s = windowBits s ∧ groupBits s * windowChars s = windowBits s
        ∧ validShort s = (List.range (chunkBytes s - 1)).map (fun i => groupBits s * ceilDiv (8 * (i + 1)) (groupBits s))
        ∧ (validShort s).map (· / 8) = (List.range (chunkBytes s - 1)).map (· + 1)

/-- A PAD or DATA character with no error before it consumes one window position, and the W-th position closes the
window. Rests on 42_decode.md R171, 42_decode.md R173, 42_decode.md R174, 42_decode.md R178. -/
def Obligations.PutcConsumesPadOrDataPosition : Prop :=
  ∀ (s t : State) (ch : BitVec 8), s.msgState = .active → s.config.getLsbD 2 = true → s.errReason = 0#3 →
    PositionConsumed s ch t →
    (t.cnt.toNat ≠ windowChars (schemeOf s.config) → exec (.putc ch) s = .next (answered t))
      ∧ (t.cnt.toNat = windowChars (schemeOf s.config) → exec (.putc ch) s = .next (answered (windowClose t)))

/-- A window that closes is rejected as INVALID_PADDING with nothing emitted, or emits its bytes and clears the
window. States R179. -/
def Obligations.WindowCloseValidatesThenEmits : Prop :=
  ∀ s : State, s.errReason = 0#3 →
    (WindowRejected s → windowClose s = { s with errReason := 2#3 })
      ∧ (¬ WindowRejected s → windowClose s =
          { emitAll (windowText s) s with acc := 0#40, cnt := 0#4, bits := 0#6, padSeen := false })

/-- A data character after a pad in the same window latches INVALID_PADDING and changes nothing else but IN_COUNT.
States R175. -/
def Obligations.PutcDataAfterPadIsInvalidPadding : Prop :=
  (∀ (s : State) (ch : BitVec 8) (v : BitVec 6), s.msgState = .active → s.config.getLsbD 2 = true →
      s.errReason = 0#3 → s.padSeen = true → decLUT (schemeOf s.config) ch = .data v →
      exec (.putc ch) s = .next (answered { s with inCount := s.inCount + 1#31, errReason := 2#3 }))
    ∧ ∀ s : State, s.errReason = 0#3 → ¬ WindowRejected s → (windowClose s).padSeen = false

/-- An INVALID character latches INVALID_CHARACTER whether or not a pad came before it. States R176. -/
def Obligations.PutcInvalidCharacter : Prop :=
  ∀ (s : State) (ch : BitVec 8), s.msgState = .active → s.config.getLsbD 2 = true → s.errReason = 0#3 →
    decLUT (schemeOf s.config) ch = .invalid →
    exec (.putc ch) s = .next (answered { s with inCount := s.inCount + 1#31, errReason := 1#3 })

/-- After the first error PUTC only counts, and END clears the window state. States R177. -/
def Obligations.PutcAfterErrorOnlyCounts : Prop :=
  (∀ (s : State) (ch : BitVec 8), s.msgState = .active → s.config.getLsbD 2 = true → s.errReason ≠ 0#3 →
      exec (.putc ch) s = .next (answered { s with inCount := s.inCount + 1#31 }))
    ∧ ∀ s : State, s.msgState = .active → s.config.getLsbD 2 = true → s.errReason ≠ 0#3 →
        ∃ t, exec .endMsg s = .next t ∧ t.acc = 0#40 ∧ t.cnt = 0#4 ∧ t.bits = 0#6 ∧ t.padSeen = false

/-- PUTC is NAKed outside a decode message and for a nonzero zero field. Rests on 42_decode.md R171,
60_exceptions.md R239. -/
def Obligations.PutcOutsideDecodeMessageIsNaked : Prop :=
  (∀ (s : State) (ch : BitVec 8), s.msgState ≠ .active ∨ s.config.getLsbD 2 = false →
      exec (.putc ch) s = .next (rejected s))
    ∧ ∀ (s : State) (w : CmdWord), w.extractLsb' 12 4 = 3#4 → w.extractLsb' 8 4 ≠ 0#4 →
        runWord w s = .next (rejected s)

/-- During a message ERR_REASON leaves 0 at most once, to 1 or 2, and END changes a latched reason only to
ODD_LENGTH. Rests on 60_exceptions.md R235, 40_control.md R115. -/
def Obligations.FirstErrorIsLatchedOnce : Prop :=
  (∀ (s : State) (i : Instr), s.msgState = .active → i ≠ .endMsg → i ≠ .srst →
      (∀ scheme dir caseBit padBit, i = .cfg scheme dir caseBit padBit →
        legalConfig scheme dir caseBit padBit = false) →
      ∃ t, exec i s = .next t ∧ (s.errReason ≠ 0#3 → t.errReason = s.errReason)
        ∧ (s.errReason = 0#3 → t.errReason.toNat ≤ 2))
    ∧ ∀ s : State, s.msgState = .active → s.errReason.toNat ≤ 2 →
        ∃ t, exec .endMsg s = .next t
          ∧ (s.errReason ≠ 0#3 → t.errReason = s.errReason ∨ t.errReason = 3#3)
          ∧ (t.errReason = 4#3 → s.errReason = 0#3)

/-- RDREG returns each of the eight registers and changes nothing else, and is NAKed at the reserved indices. States
R210. -/
def Obligations.RdregReturnsEachRegister : Prop :=
  (∀ s : State,
      exec (.rdreg 0#4) s = .next { s with response := some 0x52445831#32 }
        ∧ exec (.rdreg 1#4) s = .next { s with response := some (s.config.setWidth 32) }
        ∧ exec (.rdreg 2#4) s = .next { s with response := some ((statusOf s).setWidth 32) }
        ∧ exec (.rdreg 3#4) s = .next { s with response := some (s.errReason.setWidth 32) }
        ∧ exec (.rdreg 4#4) s = .next { s with response := some (s.outCount.setWidth 32) }
        ∧ exec (.rdreg 5#4) s = .next { s with response := some (s.inCount.setWidth 32) }
        ∧ exec (.rdreg 6#4) s = .next { s with response := some (s.depth.setWidth 32) }
        ∧ exec (.rdreg 7#4) s = .next
            { s with response := some (BitVec.ofNat 32
                (groupBits (schemeOf s.config) + 16 * chunkBytes (schemeOf s.config)
                  + 256 * windowChars (schemeOf s.config) + 4096 * (hasPad (schemeOf s.config)).toNat)) })
    ∧ (∀ (s : State) (reg : BitVec 4), 8 ≤ reg.toNat → exec (.rdreg reg) s = .next (rejected s))
    ∧ ∀ (s : State) (w : CmdWord), w.extractLsb' 12 4 = 5#4 → w.extractLsb' 4 8 ≠ 0#8 →
        runWord w s = .next (rejected s)

/-- SCHEME_INFO is 0x0214 for HEX, 0x1855 for B32 and 0x1436 for B64 and B64URL, and 0x0214 at reset. States R32. -/
def Obligations.SchemeInfoValues : Prop :=
  (∀ s : State,
      let value : Response :=
        match schemeOf s.config with
        | .hex => 0x0214#32
        | .b32 => 0x1855#32
        | .b64 => 0x1436#32
        | .b64url => 0x1436#32
      exec (.rdreg 7#4) s = .next { s with response := some value })
    ∧ ∀ d, readReg 7#4 (State.resetWith d) = some 0x0214#31

/-- RDOUT returns the entry at ADDR in DONE_OK below OUT_COUNT, changes nothing else, and is NAKed otherwise. States
R212. -/
def Obligations.RdoutReturnsEmittedEntry : Prop :=
  (∀ (s : State) (addr : BitVec 12), s.msgState = .doneOk → addr.toNat < s.outCount.toNat →
      (∃ x : Byte, exec (.rdout addr) s = .next { s with response := some (x.setWidth 32) })
        ∧ (∀ x : Byte, Memory.read s.obuf addr.toNat = some x →
            exec (.rdout addr) s = .next { s with response := some (x.setWidth 32) })
        ∧ (s.Inv → ∃ x : Byte, Memory.read s.obuf addr.toNat = some x))
    ∧ ∀ (s : State) (addr : BitVec 12), s.msgState ≠ .doneOk ∨ s.outCount.toNat ≤ addr.toNat →
        exec (.rdout addr) s = .next (rejected s)

/-- An accepted RDREG or RDOUT changes only the response, repeats alike, and is invisible to every later command; a
NAKed one sets ILL only. States R214. -/
def Obligations.ReadsHaveNoSideEffects : Prop :=
  ∀ (s : State) (i : Instr), ((∃ reg, i = .rdreg reg) ∨ ∃ addr, i = .rdout addr) →
    (¬ NakCause s i → ∃ t, exec i s = .next t ∧ t = { s with response := t.response } ∧ exec i t = .next t
        ∧ ∀ j : Instr, exec j t = exec j s)
      ∧ (NakCause s i → ∃ t, exec i s = .next t ∧ t = { s with ill := true, response := t.response })

/-- What PUTB and PUTC leave unchanged: configuration, state, ILL on acceptance, DEPTH, and every OBUF entry outside
the ones emitted. Rests on 41_encode.md R141, 42_decode.md R171, 20_memory.md R51, 20_memory.md R52. -/
def Obligations.InputCommandFrame : Prop :=
  ∀ (s : State) (i : Instr), ((∃ b, i = .putb b) ∨ ∃ c, i = .putc c) → ∃ t, exec i s = .next t
    ∧ t.config = s.config ∧ t.msgState = s.msgState ∧ t.depth = s.depth
    ∧ t.hostProgram = s.hostProgram ∧ t.hostPos = s.hostPos
    ∧ (¬ NakCause s i → t.ill = s.ill)
    ∧ ((∃ b, i = .putb b) → t.errReason = s.errReason ∧ t.bits = s.bits ∧ t.padSeen = s.padSeen)
    ∧ s.outCount.toNat ≤ t.outCount.toNat
    ∧ ∀ a, a < s.outCount.toNat ∨ t.outCount.toNat ≤ a → Memory.read t.obuf a = Memory.read s.obuf a

/-- What NOP, CFG, END and SRST leave unchanged. Rests on 40_control.md R110, 40_control.md R111, 40_control.md
R113, 40_control.md R117, 20_memory.md R54. -/
def Obligations.ControlCommandFrame : Prop :=
  (∀ s : State, ∃ t, exec .nop s = .next t ∧ t = { s with response := t.response })
    ∧ (∀ (s : State) (scheme : Scheme) (dir : Dir) (caseBit padBit : Bool),
        legalConfig scheme dir caseBit padBit = true → ∃ t, exec (.cfg scheme dir caseBit padBit) s = .next t
          ∧ t.obuf = s.obuf ∧ t.ill = s.ill ∧ t.depth = s.depth
          ∧ t.hostProgram = s.hostProgram ∧ t.hostPos = s.hostPos)
    ∧ (∀ s : State, s.msgState = .active → ∃ t, exec .endMsg s = .next t
        ∧ t.config = s.config ∧ t.inCount = s.inCount ∧ t.ill = s.ill ∧ t.depth = s.depth
        ∧ t.hostProgram = s.hostProgram ∧ t.hostPos = s.hostPos
        ∧ ∀ a, a < s.outCount.toNat ∨ (flushMessage s).outCount.toNat ≤ a →
            Memory.read t.obuf a = Memory.read s.obuf a)
    ∧ ∀ s : State, ∃ t, exec .srst s = .next t ∧ t.depth = s.depth
        ∧ t.hostProgram = s.hostProgram ∧ t.hostPos = s.hostPos

/-- The invariants hold at reset, for every legal OBUF_DEPTH. Rests on 10_state.md R38, 10_state.md R39, 00_scope.md
R10. -/
def Obligations.InvariantsHoldAtReset : Prop :=
  (∀ d : BitVec 13, 1 ≤ d.toNat → d.toNat ≤ 4096 → (State.resetWith d).Inv) ∧ State.reset.Inv

/-- Every step keeps the invariants between commands. Rests on 10_state.md R39, 10_state.md R40, 10_state.md R24,
10_state.md R28, 20_memory.md R51. -/
def Obligations.StepKeepsInvariants : Prop :=
  ∀ s t : State, s.Inv → step s = .next t → t.Inv

/-- OBUF entries at or above OUT_COUNT cannot be observed: two states that differ only there stay so, with the same
responses. Rests on 10_state.md R37, 20_memory.md R54, 93_implementation_defined.md I6. -/
def Obligations.EntriesAboveCountAreUnobservable : Prop :=
  (∀ s t s' : State, AgreeBelowCount s t → step s = .next s' → ∃ t', step t = .next t' ∧ AgreeBelowCount s' t')
    ∧ ∀ (s : State) (m : Memory) (i : Instr), s.msgState ≠ .doneOk →
        ∃ t u, exec i s = .next t ∧ exec i { s with obuf := m } = .next u ∧ u.response = t.response

/-- After a latched error the window state cannot be observed. Rests on 42_decode.md R177,
93_implementation_defined.md I7. -/
def Obligations.WindowAfterErrorIsUnobservable : Prop :=
  ∀ (s t s' : State) (i : Instr), AgreeUpToWindow s t → exec i s = .next s' →
    ∃ t', exec i t = .next t' ∧ t'.response = s'.response ∧ (t' = s' ∨ AgreeUpToWindow s' t')

/-- An encode message whose text fits leaves NE's encoding of its bytes in OBUF. Rests on 41_encode.md R141,
41_encode.md R142, 41_encode.md R143, 41_encode.md R146, 41_encode.md R147, 20_memory.md R51. -/
def Obligations.EncodeMessageComputesReference : Prop :=
  ∀ (s : State) (sch : Scheme) (caseBit padBit : Bool) (bytes : List Byte),
    legalConfig sch .encode caseBit padBit = true →
    (refEncode sch caseBit padBit bytes).length ≤ s.depth.toNat →
    ∃ t, runCommands (message sch .encode caseBit padBit bytes) s = .next t ∧ t.msgState = .doneOk
      ∧ outputOf t = (refEncode sch caseBit padBit bytes).map some

/-- A decode message ends exactly as NE's decode of its text does: with its bytes, with its reason, or with an
overflow. Rests on 42_decode.md R170, 42_decode.md R171, 42_decode.md R179, 42_decode.md R184, 42_decode.md
R185, 42_decode.md R187, 60_exceptions.md R237. -/
def Obligations.DecodeMessageComputesReference : Prop :=
  ∀ (s : State) (sch : Scheme) (padBit : Bool) (text : List Byte), legalConfig sch .decode false padBit = true →
    ∃ t, runCommands (message sch .decode false padBit text) s = .next t
      ∧ (match refDecode sch padBit text with
        | .ok bytes =>
          if bytes.length ≤ s.depth.toNat then t.msgState = .doneOk ∧ outputOf t = bytes.map some
          else t.msgState = .doneErr ∧ t.errReason = 4#3 ∧ t.outCount = 0#13
        | .error e => t.msgState = .doneErr ∧ t.errReason = errCode e ∧ t.outCount = 0#13)

/-- Decoding the text an encode message produced gives the bytes back, for every pairing NE allows. States R189. -/
def Obligations.RoundTripOfEveryMessage : Prop :=
  ∀ (s : State) (sch : Scheme) (caseBit encPad decPad : Bool) (bytes : List Byte),
    legalConfig sch .encode caseBit encPad = true → legalConfig sch .decode false decPad = true →
    encodedLength sch encPad bytes.length ≤ s.depth.toNat →
    ∃ (t : State) (text : List Byte), runCommands (message sch .encode caseBit encPad bytes) s = .next t
      ∧ t.msgState = .doneOk ∧ outputOf t = text.map some
      ∧ ∃ u, runCommands (message sch .decode false decPad text) t = .next u
        ∧ (encPad = decPad ∨ encPad = false → u.msgState = .doneOk ∧ outputOf u = bytes.map some)
        ∧ (encPad = true ∧ decPad = false ∧ bytes.length % chunkBytes sch ≠ 0 →
            u.msgState = .doneErr ∧ u.errReason = 1#3)

/-- END of an encode message leaves OUT_COUNT at NE's length of the encoded text. States R149. -/
def Obligations.EncodedLengthOfEveryMessage : Prop :=
  ∀ (s : State) (sch : Scheme) (caseBit padBit : Bool) (bytes : List Byte),
    legalConfig sch .encode caseBit padBit = true →
    encodedLength sch padBit bytes.length ≤ s.depth.toNat →
    let n := bytes.length
    ∃ t, runCommands (message sch .encode caseBit padBit bytes) s = .next t
      ∧ (sch = .hex → t.outCount.toNat = 2 * n)
      ∧ (sch = .b32 → padBit = false → t.outCount.toNat = 8 * ceilDiv n 5)
      ∧ (sch = .b64 ∨ sch = .b64url → padBit = false → t.outCount.toNat = 4 * ceilDiv n 3)
      ∧ (padBit = true →
          t.outCount.toNat = windowChars sch * (n / chunkBytes sch)
              + (if 0 < n % chunkBytes sch then ceilDiv (8 * (n % chunkBytes sch)) (groupBits sch) else 0)
            ∧ t.outCount.toNat = ceilDiv (8 * n) (groupBits sch))

/-- An encode message fails exactly when its text does not fit, and then with OUTPUT_OVERFLOW only. States R148. -/
def Obligations.EncodeFailsByOverflowOnly : Prop :=
  (∀ (s : State) (sch : Scheme) (caseBit padBit : Bool) (bytes : List Byte),
      legalConfig sch .encode caseBit padBit = true →
      ∃ t, runCommands (message sch .encode caseBit padBit bytes) s = .next t
        ∧ (encodedLength sch padBit bytes.length ≤ s.depth.toNat → t.msgState = .doneOk ∧ t.errReason = 0#3)
        ∧ (s.depth.toNat < encodedLength sch padBit bytes.length → t.msgState = .doneErr ∧ t.errReason = 4#3))
    ∧ ∀ (s : State) (data : BitVec 8), ∃ t, exec (.putb data) s = .next t ∧ t.errReason = s.errReason

/-- An empty message ends in DONE_OK with OUT_COUNT 0, for every legal configuration. States R190. -/
def Obligations.EmptyMessageSucceeds : Prop :=
  ∀ (s : State) (sch : Scheme) (dir : Dir) (caseBit padBit : Bool), legalConfig sch dir caseBit padBit = true →
    ∃ t, runCommands [.cfg sch dir caseBit padBit, .endMsg] s = .next t ∧ t.msgState = .doneOk
      ∧ t.outCount = 0#13 ∧ t.errReason = 0#3
end

