-- ==== Sys2Proof/Laws/State.lean ====
section
/-! SUPPORT. What each shared operation does to each field of the state: one lemma per field per operation, so that no
proof unfolds a record update. -/

namespace Sys2Proof.Laws

open Sys2Proof.Machine

section fields

variable (s : State)

/-! respond -/

@[simp] theorem respond_config (v : Payload) : (respond v s).config = s.config := rfl
@[simp] theorem respond_msgState (v : Payload) : (respond v s).msgState = s.msgState := rfl
@[simp] theorem respond_ovf (v : Payload) : (respond v s).ovf = s.ovf := rfl
@[simp] theorem respond_ill (v : Payload) : (respond v s).ill = s.ill := rfl
@[simp] theorem respond_errReason (v : Payload) : (respond v s).errReason = s.errReason := rfl
@[simp] theorem respond_outCount (v : Payload) : (respond v s).outCount = s.outCount := rfl
@[simp] theorem respond_inCount (v : Payload) : (respond v s).inCount = s.inCount := rfl
@[simp] theorem respond_depth (v : Payload) : (respond v s).depth = s.depth := rfl
@[simp] theorem respond_acc (v : Payload) : (respond v s).acc = s.acc := rfl
@[simp] theorem respond_cnt (v : Payload) : (respond v s).cnt = s.cnt := rfl
@[simp] theorem respond_bits (v : Payload) : (respond v s).bits = s.bits := rfl
@[simp] theorem respond_padSeen (v : Payload) : (respond v s).padSeen = s.padSeen := rfl
@[simp] theorem respond_obuf (v : Payload) : (respond v s).obuf = s.obuf := rfl
@[simp] theorem respond_response (v : Payload) : (respond v s).response = some (v.setWidth 32) := rfl
@[simp] theorem respond_hostProgram (v : Payload) : (respond v s).hostProgram = s.hostProgram := rfl
@[simp] theorem respond_hostPos (v : Payload) : (respond v s).hostPos = s.hostPos := rfl

/-! respondStatus -/

@[simp] theorem respondStatus_config : (respondStatus s).config = s.config := rfl
@[simp] theorem respondStatus_msgState : (respondStatus s).msgState = s.msgState := rfl
@[simp] theorem respondStatus_ovf : (respondStatus s).ovf = s.ovf := rfl
@[simp] theorem respondStatus_ill : (respondStatus s).ill = s.ill := rfl
@[simp] theorem respondStatus_errReason : (respondStatus s).errReason = s.errReason := rfl
@[simp] theorem respondStatus_outCount : (respondStatus s).outCount = s.outCount := rfl
@[simp] theorem respondStatus_inCount : (respondStatus s).inCount = s.inCount := rfl
@[simp] theorem respondStatus_depth : (respondStatus s).depth = s.depth := rfl
@[simp] theorem respondStatus_acc : (respondStatus s).acc = s.acc := rfl
@[simp] theorem respondStatus_cnt : (respondStatus s).cnt = s.cnt := rfl
@[simp] theorem respondStatus_bits : (respondStatus s).bits = s.bits := rfl
@[simp] theorem respondStatus_padSeen : (respondStatus s).padSeen = s.padSeen := rfl
@[simp] theorem respondStatus_obuf : (respondStatus s).obuf = s.obuf := rfl
@[simp] theorem respondStatus_response : (respondStatus s).response = some (((statusOf s).setWidth 31).setWidth 32) := rfl
@[simp] theorem respondStatus_hostProgram : (respondStatus s).hostProgram = s.hostProgram := rfl
@[simp] theorem respondStatus_hostPos : (respondStatus s).hostPos = s.hostPos := rfl

/-! nak -/

@[simp] theorem nak_config : (nak s).config = s.config := rfl
@[simp] theorem nak_msgState : (nak s).msgState = s.msgState := rfl
@[simp] theorem nak_ovf : (nak s).ovf = s.ovf := rfl
@[simp] theorem nak_ill : (nak s).ill = true := rfl
@[simp] theorem nak_errReason : (nak s).errReason = s.errReason := rfl
@[simp] theorem nak_outCount : (nak s).outCount = s.outCount := rfl
@[simp] theorem nak_inCount : (nak s).inCount = s.inCount := rfl
@[simp] theorem nak_depth : (nak s).depth = s.depth := rfl
@[simp] theorem nak_acc : (nak s).acc = s.acc := rfl
@[simp] theorem nak_cnt : (nak s).cnt = s.cnt := rfl
@[simp] theorem nak_bits : (nak s).bits = s.bits := rfl
@[simp] theorem nak_padSeen : (nak s).padSeen = s.padSeen := rfl
@[simp] theorem nak_obuf : (nak s).obuf = s.obuf := rfl
@[simp] theorem nak_hostProgram : (nak s).hostProgram = s.hostProgram := rfl
@[simp] theorem nak_hostPos : (nak s).hostPos = s.hostPos := rfl

/-! clearWindow -/

@[simp] theorem clearWindow_config : (clearWindow s).config = s.config := rfl
@[simp] theorem clearWindow_msgState : (clearWindow s).msgState = s.msgState := rfl
@[simp] theorem clearWindow_ovf : (clearWindow s).ovf = s.ovf := rfl
@[simp] theorem clearWindow_ill : (clearWindow s).ill = s.ill := rfl
@[simp] theorem clearWindow_errReason : (clearWindow s).errReason = s.errReason := rfl
@[simp] theorem clearWindow_outCount : (clearWindow s).outCount = s.outCount := rfl
@[simp] theorem clearWindow_inCount : (clearWindow s).inCount = s.inCount := rfl
@[simp] theorem clearWindow_depth : (clearWindow s).depth = s.depth := rfl
@[simp] theorem clearWindow_acc : (clearWindow s).acc = 0#40 := rfl
@[simp] theorem clearWindow_cnt : (clearWindow s).cnt = 0#4 := rfl
@[simp] theorem clearWindow_bits : (clearWindow s).bits = 0#6 := rfl
@[simp] theorem clearWindow_padSeen : (clearWindow s).padSeen = false := rfl
@[simp] theorem clearWindow_obuf : (clearWindow s).obuf = s.obuf := rfl
@[simp] theorem clearWindow_response : (clearWindow s).response = s.response := rfl
@[simp] theorem clearWindow_hostProgram : (clearWindow s).hostProgram = s.hostProgram := rfl
@[simp] theorem clearWindow_hostPos : (clearWindow s).hostPos = s.hostPos := rfl

/-! clearChunk -/

@[simp] theorem clearChunk_config : (clearChunk s).config = s.config := rfl
@[simp] theorem clearChunk_msgState : (clearChunk s).msgState = s.msgState := rfl
@[simp] theorem clearChunk_ovf : (clearChunk s).ovf = s.ovf := rfl
@[simp] theorem clearChunk_ill : (clearChunk s).ill = s.ill := rfl
@[simp] theorem clearChunk_errReason : (clearChunk s).errReason = s.errReason := rfl
@[simp] theorem clearChunk_outCount : (clearChunk s).outCount = s.outCount := rfl
@[simp] theorem clearChunk_inCount : (clearChunk s).inCount = s.inCount := rfl
@[simp] theorem clearChunk_depth : (clearChunk s).depth = s.depth := rfl
@[simp] theorem clearChunk_acc : (clearChunk s).acc = 0#40 := rfl
@[simp] theorem clearChunk_cnt : (clearChunk s).cnt = 0#4 := rfl
@[simp] theorem clearChunk_bits : (clearChunk s).bits = s.bits := rfl
@[simp] theorem clearChunk_padSeen : (clearChunk s).padSeen = s.padSeen := rfl
@[simp] theorem clearChunk_obuf : (clearChunk s).obuf = s.obuf := rfl
@[simp] theorem clearChunk_response : (clearChunk s).response = s.response := rfl
@[simp] theorem clearChunk_hostProgram : (clearChunk s).hostProgram = s.hostProgram := rfl
@[simp] theorem clearChunk_hostPos : (clearChunk s).hostPos = s.hostPos := rfl

/-! countInput -/

@[simp] theorem countInput_config : (countInput s).config = s.config := rfl
@[simp] theorem countInput_msgState : (countInput s).msgState = s.msgState := rfl
@[simp] theorem countInput_ovf : (countInput s).ovf = s.ovf := rfl
@[simp] theorem countInput_ill : (countInput s).ill = s.ill := rfl
@[simp] theorem countInput_errReason : (countInput s).errReason = s.errReason := rfl
@[simp] theorem countInput_outCount : (countInput s).outCount = s.outCount := rfl
@[simp] theorem countInput_inCount : (countInput s).inCount = s.inCount + 1#31 := rfl
@[simp] theorem countInput_depth : (countInput s).depth = s.depth := rfl
@[simp] theorem countInput_acc : (countInput s).acc = s.acc := rfl
@[simp] theorem countInput_cnt : (countInput s).cnt = s.cnt := rfl
@[simp] theorem countInput_bits : (countInput s).bits = s.bits := rfl
@[simp] theorem countInput_padSeen : (countInput s).padSeen = s.padSeen := rfl
@[simp] theorem countInput_obuf : (countInput s).obuf = s.obuf := rfl
@[simp] theorem countInput_response : (countInput s).response = s.response := rfl
@[simp] theorem countInput_hostProgram : (countInput s).hostProgram = s.hostProgram := rfl
@[simp] theorem countInput_hostPos : (countInput s).hostPos = s.hostPos := rfl

/-! advanceHost -/

@[simp] theorem advanceHost_config : (advanceHost s).config = s.config := rfl
@[simp] theorem advanceHost_msgState : (advanceHost s).msgState = s.msgState := rfl
@[simp] theorem advanceHost_ovf : (advanceHost s).ovf = s.ovf := rfl
@[simp] theorem advanceHost_ill : (advanceHost s).ill = s.ill := rfl
@[simp] theorem advanceHost_errReason : (advanceHost s).errReason = s.errReason := rfl
@[simp] theorem advanceHost_outCount : (advanceHost s).outCount = s.outCount := rfl
@[simp] theorem advanceHost_inCount : (advanceHost s).inCount = s.inCount := rfl
@[simp] theorem advanceHost_depth : (advanceHost s).depth = s.depth := rfl
@[simp] theorem advanceHost_acc : (advanceHost s).acc = s.acc := rfl
@[simp] theorem advanceHost_cnt : (advanceHost s).cnt = s.cnt := rfl
@[simp] theorem advanceHost_bits : (advanceHost s).bits = s.bits := rfl
@[simp] theorem advanceHost_padSeen : (advanceHost s).padSeen = s.padSeen := rfl
@[simp] theorem advanceHost_obuf : (advanceHost s).obuf = s.obuf := rfl
@[simp] theorem advanceHost_response : (advanceHost s).response = s.response := rfl
@[simp] theorem advanceHost_hostProgram : (advanceHost s).hostProgram = s.hostProgram := rfl
@[simp] theorem advanceHost_hostPos : (advanceHost s).hostPos = s.hostPos + 1 := rfl

/-! insertByte -/

@[simp] theorem insertByte_config (data : Byte) : (insertByte data s).config = s.config := rfl
@[simp] theorem insertByte_msgState (data : Byte) : (insertByte data s).msgState = s.msgState := rfl
@[simp] theorem insertByte_ovf (data : Byte) : (insertByte data s).ovf = s.ovf := rfl
@[simp] theorem insertByte_ill (data : Byte) : (insertByte data s).ill = s.ill := rfl
@[simp] theorem insertByte_errReason (data : Byte) : (insertByte data s).errReason = s.errReason := rfl
@[simp] theorem insertByte_outCount (data : Byte) : (insertByte data s).outCount = s.outCount := rfl
@[simp] theorem insertByte_inCount (data : Byte) : (insertByte data s).inCount = s.inCount := rfl
@[simp] theorem insertByte_depth (data : Byte) : (insertByte data s).depth = s.depth := rfl
@[simp] theorem insertByte_acc (data : Byte) : (insertByte data s).acc = s.acc ||| placeByte (schemeOf s.config) data s.cnt.toNat := rfl
@[simp] theorem insertByte_cnt (data : Byte) : (insertByte data s).cnt = s.cnt + 1#4 := rfl
@[simp] theorem insertByte_bits (data : Byte) : (insertByte data s).bits = s.bits := rfl
@[simp] theorem insertByte_padSeen (data : Byte) : (insertByte data s).padSeen = s.padSeen := rfl
@[simp] theorem insertByte_obuf (data : Byte) : (insertByte data s).obuf = s.obuf := rfl
@[simp] theorem insertByte_response (data : Byte) : (insertByte data s).response = s.response := rfl
@[simp] theorem insertByte_hostProgram (data : Byte) : (insertByte data s).hostProgram = s.hostProgram := rfl
@[simp] theorem insertByte_hostPos (data : Byte) : (insertByte data s).hostPos = s.hostPos := rfl

/-! insertGroup -/

@[simp] theorem insertGroup_config (v : BitVec 6) : (insertGroup v s).config = s.config := rfl
@[simp] theorem insertGroup_msgState (v : BitVec 6) : (insertGroup v s).msgState = s.msgState := rfl
@[simp] theorem insertGroup_ovf (v : BitVec 6) : (insertGroup v s).ovf = s.ovf := rfl
@[simp] theorem insertGroup_ill (v : BitVec 6) : (insertGroup v s).ill = s.ill := rfl
@[simp] theorem insertGroup_errReason (v : BitVec 6) : (insertGroup v s).errReason = s.errReason := rfl
@[simp] theorem insertGroup_outCount (v : BitVec 6) : (insertGroup v s).outCount = s.outCount := rfl
@[simp] theorem insertGroup_inCount (v : BitVec 6) : (insertGroup v s).inCount = s.inCount := rfl
@[simp] theorem insertGroup_depth (v : BitVec 6) : (insertGroup v s).depth = s.depth := rfl
@[simp] theorem insertGroup_acc (v : BitVec 6) : (insertGroup v s).acc = s.acc ||| placeGroup (schemeOf s.config) v s.cnt.toNat := rfl
@[simp] theorem insertGroup_cnt (v : BitVec 6) : (insertGroup v s).cnt = s.cnt := rfl
@[simp] theorem insertGroup_bits (v : BitVec 6) : (insertGroup v s).bits = s.bits + BitVec.ofNat 6 (groupBits (schemeOf s.config)) := rfl
@[simp] theorem insertGroup_padSeen (v : BitVec 6) : (insertGroup v s).padSeen = s.padSeen := rfl
@[simp] theorem insertGroup_obuf (v : BitVec 6) : (insertGroup v s).obuf = s.obuf := rfl
@[simp] theorem insertGroup_response (v : BitVec 6) : (insertGroup v s).response = s.response := rfl
@[simp] theorem insertGroup_hostProgram (v : BitVec 6) : (insertGroup v s).hostProgram = s.hostProgram := rfl
@[simp] theorem insertGroup_hostPos (v : BitVec 6) : (insertGroup v s).hostPos = s.hostPos := rfl

/-! beginMessage -/

@[simp] theorem beginMessage_config (c : BitVec 5) : (beginMessage c s).config = c := rfl
@[simp] theorem beginMessage_msgState (c : BitVec 5) : (beginMessage c s).msgState = .active := rfl
@[simp] theorem beginMessage_ovf (c : BitVec 5) : (beginMessage c s).ovf = false := rfl
@[simp] theorem beginMessage_ill (c : BitVec 5) : (beginMessage c s).ill = s.ill := rfl
@[simp] theorem beginMessage_errReason (c : BitVec 5) : (beginMessage c s).errReason = 0#3 := rfl
@[simp] theorem beginMessage_outCount (c : BitVec 5) : (beginMessage c s).outCount = 0#13 := rfl
@[simp] theorem beginMessage_inCount (c : BitVec 5) : (beginMessage c s).inCount = 0#31 := rfl
@[simp] theorem beginMessage_depth (c : BitVec 5) : (beginMessage c s).depth = s.depth := rfl
@[simp] theorem beginMessage_acc (c : BitVec 5) : (beginMessage c s).acc = 0#40 := rfl
@[simp] theorem beginMessage_cnt (c : BitVec 5) : (beginMessage c s).cnt = 0#4 := rfl
@[simp] theorem beginMessage_bits (c : BitVec 5) : (beginMessage c s).bits = 0#6 := rfl
@[simp] theorem beginMessage_padSeen (c : BitVec 5) : (beginMessage c s).padSeen = false := rfl
@[simp] theorem beginMessage_obuf (c : BitVec 5) : (beginMessage c s).obuf = s.obuf := rfl
@[simp] theorem beginMessage_response (c : BitVec 5) : (beginMessage c s).response = s.response := rfl
@[simp] theorem beginMessage_hostProgram (c : BitVec 5) : (beginMessage c s).hostProgram = s.hostProgram := rfl
@[simp] theorem beginMessage_hostPos (c : BitVec 5) : (beginMessage c s).hostPos = s.hostPos := rfl

/-! softReset -/

@[simp] theorem softReset_config : (softReset s).config = 0#5 := rfl
@[simp] theorem softReset_msgState : (softReset s).msgState = .idle := rfl
@[simp] theorem softReset_ovf : (softReset s).ovf = false := rfl
@[simp] theorem softReset_ill : (softReset s).ill = false := rfl
@[simp] theorem softReset_errReason : (softReset s).errReason = 0#3 := rfl
@[simp] theorem softReset_outCount : (softReset s).outCount = 0#13 := rfl
@[simp] theorem softReset_inCount : (softReset s).inCount = 0#31 := rfl
@[simp] theorem softReset_depth : (softReset s).depth = s.depth := rfl
@[simp] theorem softReset_acc : (softReset s).acc = 0#40 := rfl
@[simp] theorem softReset_cnt : (softReset s).cnt = 0#4 := rfl
@[simp] theorem softReset_bits : (softReset s).bits = 0#6 := rfl
@[simp] theorem softReset_padSeen : (softReset s).padSeen = false := rfl
@[simp] theorem softReset_obuf : (softReset s).obuf = [] := rfl
@[simp] theorem softReset_response : (softReset s).response = s.response := rfl
@[simp] theorem softReset_hostProgram : (softReset s).hostProgram = s.hostProgram := rfl
@[simp] theorem softReset_hostPos : (softReset s).hostPos = s.hostPos := rfl

/-! emit -/

@[simp] theorem emit_config (x : Byte) : (emit x s).config = s.config := by unfold emit; split <;> rfl
@[simp] theorem emit_msgState (x : Byte) : (emit x s).msgState = s.msgState := by unfold emit; split <;> rfl
@[simp] theorem emit_ill (x : Byte) : (emit x s).ill = s.ill := by unfold emit; split <;> rfl
@[simp] theorem emit_errReason (x : Byte) : (emit x s).errReason = s.errReason := by unfold emit; split <;> rfl
@[simp] theorem emit_inCount (x : Byte) : (emit x s).inCount = s.inCount := by unfold emit; split <;> rfl
@[simp] theorem emit_depth (x : Byte) : (emit x s).depth = s.depth := by unfold emit; split <;> rfl
@[simp] theorem emit_acc (x : Byte) : (emit x s).acc = s.acc := by unfold emit; split <;> rfl
@[simp] theorem emit_cnt (x : Byte) : (emit x s).cnt = s.cnt := by unfold emit; split <;> rfl
@[simp] theorem emit_bits (x : Byte) : (emit x s).bits = s.bits := by unfold emit; split <;> rfl
@[simp] theorem emit_padSeen (x : Byte) : (emit x s).padSeen = s.padSeen := by unfold emit; split <;> rfl
@[simp] theorem emit_response (x : Byte) : (emit x s).response = s.response := by unfold emit; split <;> rfl
@[simp] theorem emit_hostProgram (x : Byte) : (emit x s).hostProgram = s.hostProgram := by unfold emit; split <;> rfl
@[simp] theorem emit_hostPos (x : Byte) : (emit x s).hostPos = s.hostPos := by unfold emit; split <;> rfl

/-! raise -/

@[simp] theorem raise_config (e : ErrReason) : (raise e s).config = s.config := by unfold raise; split <;> rfl
@[simp] theorem raise_msgState (e : ErrReason) : (raise e s).msgState = s.msgState := by unfold raise; split <;> rfl
@[simp] theorem raise_ovf (e : ErrReason) : (raise e s).ovf = s.ovf := by unfold raise; split <;> rfl
@[simp] theorem raise_ill (e : ErrReason) : (raise e s).ill = s.ill := by unfold raise; split <;> rfl
@[simp] theorem raise_outCount (e : ErrReason) : (raise e s).outCount = s.outCount := by unfold raise; split <;> rfl
@[simp] theorem raise_inCount (e : ErrReason) : (raise e s).inCount = s.inCount := by unfold raise; split <;> rfl
@[simp] theorem raise_depth (e : ErrReason) : (raise e s).depth = s.depth := by unfold raise; split <;> rfl
@[simp] theorem raise_acc (e : ErrReason) : (raise e s).acc = s.acc := by unfold raise; split <;> rfl
@[simp] theorem raise_cnt (e : ErrReason) : (raise e s).cnt = s.cnt := by unfold raise; split <;> rfl
@[simp] theorem raise_bits (e : ErrReason) : (raise e s).bits = s.bits := by unfold raise; split <;> rfl
@[simp] theorem raise_padSeen (e : ErrReason) : (raise e s).padSeen = s.padSeen := by unfold raise; split <;> rfl
@[simp] theorem raise_obuf (e : ErrReason) : (raise e s).obuf = s.obuf := by unfold raise; split <;> rfl
@[simp] theorem raise_response (e : ErrReason) : (raise e s).response = s.response := by unfold raise; split <;> rfl
@[simp] theorem raise_hostProgram (e : ErrReason) : (raise e s).hostProgram = s.hostProgram := by unfold raise; split <;> rfl
@[simp] theorem raise_hostPos (e : ErrReason) : (raise e s).hostPos = s.hostPos := by unfold raise; split <;> rfl

/-! commit -/

@[simp] theorem commit_config (r : BitVec 3) : (commit r s).config = s.config := by unfold commit; split <;> rfl
@[simp] theorem commit_ovf (r : BitVec 3) : (commit r s).ovf = s.ovf := by unfold commit; split <;> rfl
@[simp] theorem commit_ill (r : BitVec 3) : (commit r s).ill = s.ill := by unfold commit; split <;> rfl
@[simp] theorem commit_errReason (r : BitVec 3) : (commit r s).errReason = s.errReason := by unfold commit; split <;> rfl
@[simp] theorem commit_inCount (r : BitVec 3) : (commit r s).inCount = s.inCount := by unfold commit; split <;> rfl
@[simp] theorem commit_depth (r : BitVec 3) : (commit r s).depth = s.depth := by unfold commit; split <;> rfl
@[simp] theorem commit_acc (r : BitVec 3) : (commit r s).acc = s.acc := by unfold commit; split <;> rfl
@[simp] theorem commit_cnt (r : BitVec 3) : (commit r s).cnt = s.cnt := by unfold commit; split <;> rfl
@[simp] theorem commit_bits (r : BitVec 3) : (commit r s).bits = s.bits := by unfold commit; split <;> rfl
@[simp] theorem commit_padSeen (r : BitVec 3) : (commit r s).padSeen = s.padSeen := by unfold commit; split <;> rfl
@[simp] theorem commit_obuf (r : BitVec 3) : (commit r s).obuf = s.obuf := by unfold commit; split <;> rfl
@[simp] theorem commit_response (r : BitVec 3) : (commit r s).response = s.response := by unfold commit; split <;> rfl
@[simp] theorem commit_hostProgram (r : BitVec 3) : (commit r s).hostProgram = s.hostProgram := by unfold commit; split <;> rfl
@[simp] theorem commit_hostPos (r : BitVec 3) : (commit r s).hostPos = s.hostPos := by unfold commit; split <;> rfl

/-! emitAll -/

@[simp] theorem emitAll_nil : emitAll [] s = s := rfl
@[simp] theorem emitAll_cons (x : Byte) (xs : List Byte) : emitAll (x :: xs) s = emitAll xs (emit x s) := rfl
@[simp] theorem emitAll_config (xs : List Byte) : (emitAll xs s).config = s.config := by
  induction xs generalizing s with
  | nil => rfl
  | cons x xs ih => simp [ih]
@[simp] theorem emitAll_msgState (xs : List Byte) : (emitAll xs s).msgState = s.msgState := by
  induction xs generalizing s with
  | nil => rfl
  | cons x xs ih => simp [ih]
@[simp] theorem emitAll_ill (xs : List Byte) : (emitAll xs s).ill = s.ill := by
  induction xs generalizing s with
  | nil => rfl
  | cons x xs ih => simp [ih]
@[simp] theorem emitAll_errReason (xs : List Byte) : (emitAll xs s).errReason = s.errReason := by
  induction xs generalizing s with
  | nil => rfl
  | cons x xs ih => simp [ih]
@[simp] theorem emitAll_inCount (xs : List Byte) : (emitAll xs s).inCount = s.inCount := by
  induction xs generalizing s with
  | nil => rfl
  | cons x xs ih => simp [ih]
@[simp] theorem emitAll_depth (xs : List Byte) : (emitAll xs s).depth = s.depth := by
  induction xs generalizing s with
  | nil => rfl
  | cons x xs ih => simp [ih]
@[simp] theorem emitAll_acc (xs : List Byte) : (emitAll xs s).acc = s.acc := by
  induction xs generalizing s with
  | nil => rfl
  | cons x xs ih => simp [ih]
@[simp] theorem emitAll_cnt (xs : List Byte) : (emitAll xs s).cnt = s.cnt := by
  induction xs generalizing s with
  | nil => rfl
  | cons x xs ih => simp [ih]
@[simp] theorem emitAll_bits (xs : List Byte) : (emitAll xs s).bits = s.bits := by
  induction xs generalizing s with
  | nil => rfl
  | cons x xs ih => simp [ih]
@[simp] theorem emitAll_padSeen (xs : List Byte) : (emitAll xs s).padSeen = s.padSeen := by
  induction xs generalizing s with
  | nil => rfl
  | cons x xs ih => simp [ih]
@[simp] theorem emitAll_response (xs : List Byte) : (emitAll xs s).response = s.response := by
  induction xs generalizing s with
  | nil => rfl
  | cons x xs ih => simp [ih]
@[simp] theorem emitAll_hostProgram (xs : List Byte) : (emitAll xs s).hostProgram = s.hostProgram := by
  induction xs generalizing s with
  | nil => rfl
  | cons x xs ih => simp [ih]
@[simp] theorem emitAll_hostPos (xs : List Byte) : (emitAll xs s).hostPos = s.hostPos := by
  induction xs generalizing s with
  | nil => rfl
  | cons x xs ih => simp [ih]

end fields

end Sys2Proof.Laws
end

