-- ==== Sys2Proof/Laws/Config.lean ====
section
/-! SUPPORT. The fields of CONFIG: what CFG writes is what the accessors read (10_state.md R23). -/

namespace Sys2Proof.Laws

open Sys2Proof.Machine

@[simp] theorem schemeOf_configBits (sch : Scheme) (dir : Dir) (c p : Bool) :
    schemeOf (configBits sch dir c p) = sch := by cases sch <;> cases dir <;> cases c <;> cases p <;> decide

@[simp] theorem dirOf_configBits (sch : Scheme) (dir : Dir) (c p : Bool) :
    dirOf (configBits sch dir c p) = dir := by cases sch <;> cases dir <;> cases c <;> cases p <;> decide

@[simp] theorem caseOf_configBits (sch : Scheme) (dir : Dir) (c p : Bool) :
    caseOf (configBits sch dir c p) = c := by cases sch <;> cases dir <;> cases c <;> cases p <;> decide

@[simp] theorem padOf_configBits (sch : Scheme) (dir : Dir) (c p : Bool) :
    padOf (configBits sch dir c p) = p := by cases sch <;> cases dir <;> cases c <;> cases p <;> decide

/-- Every row of the scheme table satisfies 8·CB = k·W = WB (00_scope.md R7). -/
theorem window_is_chunk (sch : Scheme) :
    8 * chunkBytes sch = windowBits sch ∧ groupBits sch * windowChars sch = windowBits sch := by
  cases sch <;> decide

theorem windowBits_le (sch : Scheme) : windowBits sch ≤ 40 := by cases sch <;> decide

end Sys2Proof.Laws
end

