-- ==== Sys2Proof/Laws/Memory.lean ====
section
/-! SUPPORT. The laws of OBUF: read after write, and that every operation keeps the canonical form. -/

namespace Sys2Proof.Laws

open Sys2Proof.Machine

/-- A read after a write to the same entry gives the value written. -/
theorem read_write_same (m : Memory) (a : Nat) (x : Byte) : Memory.read (Memory.write m a x) a = some x := by
  induction m with
  | nil => simp [Memory.write, Memory.read]
  | cons head rest ih =>
    obtain ⟨b, y⟩ := head
    unfold Memory.write
    split
    · simp [Memory.read]
    · split
      · simp [Memory.read]
      · next h => simp [Memory.read, h, ih]

/-- A write leaves every other entry alone. -/
theorem read_write_other (m : Memory) {a c : Nat} (x : Byte) (h : c ≠ a) :
    Memory.read (Memory.write m a x) c = Memory.read m c := by
  induction m with
  | nil => simp [Memory.write, Memory.read, h]
  | cons head rest ih =>
    obtain ⟨b, y⟩ := head
    unfold Memory.write
    split
    · simp [Memory.read, h]
    · split
      · next hb => subst hb; simp [Memory.read, h]
      · simp only [Memory.read, ih]

/-- Reading an entry after a write, in one equation. -/
theorem read_write (m : Memory) (a c : Nat) (x : Byte) :
    Memory.read (Memory.write m a x) c = if c = a then some x else Memory.read m c := by
  split
  · next h => rw [h, read_write_same]
  · next h => exact read_write_other m x h

theorem wfFrom_mono {lo lo' : Nat} (h : lo ≤ lo') : ∀ m : Memory, Memory.wfFrom lo' m = true → Memory.wfFrom lo m = true
  | [], _ => rfl
  | (a, _) :: rest, hm => by
    simp only [Memory.wfFrom, Bool.and_eq_true, decide_eq_true_eq] at hm ⊢
    exact ⟨le_trans h hm.1, hm.2⟩

theorem wfFrom_write (x : Byte) : ∀ (m : Memory) (lo a : Nat), lo ≤ a → Memory.wfFrom lo m = true →
    Memory.wfFrom lo (Memory.write m a x) = true
  | [], lo, a, h, _ => by simp [Memory.write, Memory.wfFrom, h]
  | (b, y) :: rest, lo, a, h, hm => by
    simp only [Memory.wfFrom, Bool.and_eq_true, decide_eq_true_eq] at hm
    unfold Memory.write
    split
    · next hab => simp [Memory.wfFrom, h, hm.2, Nat.succ_le_of_lt hab]
    · split
      · next _ hab => subst hab; simp [Memory.wfFrom, hm.1, hm.2]
      · next h1 h2 =>
        have : b + 1 ≤ a := by omega
        simp [Memory.wfFrom, hm.1, wfFrom_write x rest (b + 1) a this hm.2]

/-- A write keeps the canonical form. -/
theorem write_keeps_wf {m : Memory} (a : Nat) (x : Byte) (h : Memory.wf m = true) :
    Memory.wf (Memory.write m a x) = true := wfFrom_write x m 0 a (Nat.zero_le a) h

/-- The memory of reset is in canonical form. -/
theorem reset_memory_wf (depth : BitVec 13) : Memory.wf (State.resetWith depth).obuf = true := rfl

/-- Emit keeps the canonical form. -/
theorem emit_keeps_wf {s : State} (x : Byte) (h : Memory.wf s.obuf = true) : Memory.wf (emit x s).obuf = true := by
  unfold emit
  split
  · exact write_keeps_wf _ x h
  · exact h

/-- A sequence of Emits keeps the canonical form. -/
theorem emitAll_keeps_wf (xs : List Byte) {s : State} (h : Memory.wf s.obuf = true) :
    Memory.wf (emitAll xs s).obuf = true := by
  induction xs generalizing s with
  | nil => exact h
  | cons x xs ih => exact ih (emit_keeps_wf x h)

end Sys2Proof.Laws
end

