-- ==== Sys2Proof/Laws/Emit.lean ====
section
/-! SUPPORT. Everything Emit and a sequence of Emits can do (20_memory.md R51, R52). -/

namespace Sys2Proof.Laws

open Sys2Proof.Machine

theorem not_full_iff (s : State) : s.outCount < s.depth ↔ s.outCount.toNat < s.depth.toNat := BitVec.lt_def

/-- Emit with room: OUT_COUNT goes up by one, without wrapping. -/
theorem emit_room_outCount (x : Byte) {s : State} (h : s.outCount.toNat < s.depth.toNat) :
    (emit x s).outCount.toNat = s.outCount.toNat + 1 := by
  have hd := s.depth.isLt
  simp only [emit, not_full_iff, h, if_true]
  rw [BitVec.toNat_add]
  simp only [BitVec.toNat_ofNat]
  omega

theorem emit_room_obuf (x : Byte) {s : State} (h : s.outCount.toNat < s.depth.toNat) :
    (emit x s).obuf = Memory.write s.obuf s.outCount.toNat x := by simp [emit, not_full_iff, h]

theorem emit_room_ovf (x : Byte) {s : State} (h : s.outCount.toNat < s.depth.toNat) :
    (emit x s).ovf = s.ovf := by simp [emit, not_full_iff, h]

/-- Emit without room: the value is dropped and OVF is set. -/
theorem emit_full (x : Byte) {s : State} (h : s.depth.toNat ≤ s.outCount.toNat) :
    emit x s = { s with ovf := true } := by
  simp [emit, not_full_iff, Nat.not_lt.mpr h]

/-- Emits into a full buffer change OVF only. -/
theorem emitAll_full (xs : List Byte) {s : State} (h : s.depth.toNat ≤ s.outCount.toNat) :
    (emitAll xs s).outCount = s.outCount ∧ (emitAll xs s).obuf = s.obuf
      ∧ (emitAll xs s).ovf = (s.ovf || decide (xs ≠ [])) := by
  induction xs generalizing s with
  | nil => simp
  | cons x xs ih =>
    rw [emitAll_cons, emit_full x h]
    obtain ⟨h1, h2, h3⟩ := ih (s := { s with ovf := true }) h
    exact ⟨h1, h2, by simp [h3]⟩

/-- After a sequence of Emits, OUT_COUNT has gone up by their number, as far as OBUF_DEPTH. -/
theorem emitAll_outCount (xs : List Byte) {s : State} (h : s.outCount.toNat ≤ s.depth.toNat) :
    (emitAll xs s).outCount.toNat = min (s.outCount.toNat + xs.length) s.depth.toNat := by
  induction xs generalizing s with
  | nil => simp [h]
  | cons x xs ih =>
    rw [emitAll_cons]
    by_cases hr : s.outCount.toNat < s.depth.toNat
    · have h1 := emit_room_outCount x hr
      rw [ih (by rw [h1, emit_depth]; omega), h1, emit_depth, List.length_cons]
      omega
    · have hf := emit_full x (Nat.not_lt.mp hr)
      rw [hf, (emitAll_full xs (s := { s with ovf := true }) (Nat.not_lt.mp hr)).1]
      simp only [List.length_cons]
      omega

/-- OVF is set exactly when the values do not fit. -/
theorem emitAll_ovf (xs : List Byte) {s : State} (h : s.outCount.toNat ≤ s.depth.toNat) :
    (emitAll xs s).ovf = (s.ovf || decide (s.depth.toNat < s.outCount.toNat + xs.length)) := by
  induction xs generalizing s with
  | nil => simp [Nat.not_lt.mpr h]
  | cons x xs ih =>
    rw [emitAll_cons]
    by_cases hr : s.outCount.toNat < s.depth.toNat
    · have h1 := emit_room_outCount x hr
      rw [ih (by rw [h1, emit_depth]; omega), h1, emit_depth, emit_room_ovf x hr, List.length_cons,
        show s.outCount.toNat + 1 + xs.length = s.outCount.toNat + (xs.length + 1) by omega]
    · rw [emit_full x (Nat.not_lt.mp hr), (emitAll_full xs (s := { s with ovf := true }) (Nat.not_lt.mp hr)).2.2]
      have hl : s.depth.toNat < s.outCount.toNat + (xs.length + 1) := by omega
      simp [hl]

/-- The entry at address `a` after a sequence of Emits: value a − OUT_COUNT of the sequence where there was room, and
the old entry everywhere else. -/
theorem emitAll_read (xs : List Byte) {s : State} (h : s.outCount.toNat ≤ s.depth.toNat) (a : Nat) :
    Memory.read (emitAll xs s).obuf a =
      if s.outCount.toNat ≤ a ∧ a < min (s.outCount.toNat + xs.length) s.depth.toNat then xs[a - s.outCount.toNat]?
      else Memory.read s.obuf a := by
  induction xs generalizing s with
  | nil => rw [if_neg (by simp only [List.length_nil]; omega)]; rfl
  | cons x xs ih =>
    rw [emitAll_cons]
    by_cases hr : s.outCount.toNat < s.depth.toNat
    · have h1 := emit_room_outCount x hr
      rw [ih (by rw [h1, emit_depth]; omega), h1, emit_depth, emit_room_obuf x hr, read_write, List.length_cons]
      by_cases ha : a = s.outCount.toNat
      · subst ha
        rw [if_neg (by omega), if_pos rfl, if_pos (by omega)]
        simp
      · by_cases hin : s.outCount.toNat + 1 ≤ a ∧ a < min (s.outCount.toNat + 1 + xs.length) s.depth.toNat
        · rw [if_pos hin, if_pos (by omega), show a - s.outCount.toNat = (a - (s.outCount.toNat + 1)) + 1 by omega,
            List.getElem?_cons_succ]
        · rw [if_neg hin, if_neg ha, if_neg (by omega)]
    · rw [emit_full x (Nat.not_lt.mp hr), (emitAll_full xs (s := { s with ovf := true }) (Nat.not_lt.mp hr)).2.1,
        if_neg (by omega)]

/-- OUT_COUNT never falls in a sequence of Emits. -/
theorem emitAll_outCount_mono (xs : List Byte) (s : State) : s.outCount.toNat ≤ (emitAll xs s).outCount.toNat := by
  rcases Nat.le_total s.outCount.toNat s.depth.toNat with h | h
  · rw [emitAll_outCount xs h]; omega
  · rw [(emitAll_full xs h).1]

/-- No entry outside [OUT_COUNT before, OUT_COUNT after) changes. -/
theorem emitAll_frame (xs : List Byte) (s : State) (a : Nat)
    (ha : a < s.outCount.toNat ∨ (emitAll xs s).outCount.toNat ≤ a) :
    Memory.read (emitAll xs s).obuf a = Memory.read s.obuf a := by
  rcases Nat.le_total s.outCount.toNat s.depth.toNat with h | h
  · rw [emitAll_read xs h, if_neg]
    rw [emitAll_outCount xs h] at ha
    omega
  · rw [(emitAll_full xs h).2.1]

end Sys2Proof.Laws
end

