-- ==== Sys2Proof/Laws/Meaning.lean ====
section
/-! SUPPORT. One lemma per meaning: what a command answers when it is accepted and when it is not; and one per shared
operation of the decode path: every way in which it can end. -/

namespace Sys2Proof.Laws

open Sys2Proof.Machine

theorem inMessage_iff (dir : Dir) (s : State) :
    inMessage dir s = true ↔ s.msgState = .active ∧ dirOf s.config = dir := by simp [inMessage]

theorem execCfg_legal {sch : Scheme} {dir : Dir} {c p : Bool} (s : State) (h : legalConfig sch dir c p = true) :
    execCfg sch dir c p s = .next (respondStatus (beginMessage (configBits sch dir c p) s)) := by
  simp [execCfg, h]

theorem execCfg_illegal {sch : Scheme} {dir : Dir} {c p : Bool} (s : State) (h : legalConfig sch dir c p = false) :
    execCfg sch dir c p s = .next (nak s) := by simp [execCfg, h]

theorem execPutb_accepted (data : BitVec 8) {s : State} (h : inMessage .encode s = true) :
    execPutb data s = .next (respondStatus (completeChunk (insertByte data (countInput s)))) := by
  simp [execPutb, h]

theorem execPutb_rejected (data : BitVec 8) {s : State} (h : inMessage .encode s = false) :
    execPutb data s = .next (nak s) := by simp [execPutb, h]

theorem execPutc_accepted (data : BitVec 8) {s : State} (h : inMessage .decode s = true) :
    execPutc data s = .next (respondStatus (acceptChar data s)) := by simp [execPutc, h]

theorem execPutc_rejected (data : BitVec 8) {s : State} (h : inMessage .decode s = false) :
    execPutc data s = .next (nak s) := by simp [execPutc, h]

theorem execEnd_accepted {s : State} (h : s.msgState = .active) :
    execEnd s = .next (respondStatus (closeMessage (flushMessage s))) := by simp [execEnd, h]

theorem execEnd_rejected {s : State} (h : s.msgState ≠ .active) : execEnd s = .next (nak s) := by
  simp [execEnd, h]

/-- A chunk either is not full, and nothing is emitted, or is emitted whole and cleared. -/
theorem completeChunk_cases (s : State) :
    (s.cnt.toNat ≠ chunkBytes (schemeOf s.config) ∧ completeChunk s = s)
      ∨ (s.cnt.toNat = chunkBytes (schemeOf s.config)
          ∧ completeChunk s = clearChunk (emitChunk (chunkBytes (schemeOf s.config)) s)) := by
  by_cases h : s.cnt.toNat = chunkBytes (schemeOf s.config)
  · exact .inr ⟨h, by simp [completeChunk, h]⟩
  · exact .inl ⟨h, by simp [completeChunk, h]⟩

/-- A window closes with INVALID_PADDING, or emits its bytes and clears the window state. -/
theorem windowClose_cases (s : State) :
    (windowBytes (schemeOf s.config) s.acc s.bits.toNat = none ∧ windowClose s = raise .invalidPadding s)
      ∨ ∃ n, windowBytes (schemeOf s.config) s.acc s.bits.toNat = some n
          ∧ windowClose s = clearWindow (emitAll (windowOutput (schemeOf s.config) s.acc n) s) := by
  unfold windowClose
  split
  · next h => exact .inl ⟨h, rfl⟩
  · next n h => exact .inr ⟨n, h, rfl⟩

/-- The validator's verdict, case by case (42_decode.md R179 to R182). -/
theorem windowBytes_eq_some_iff (sch : Scheme) (acc : Accum) (bits n : Nat) :
    windowBytes sch acc bits = some n ↔
      (windowBits sch ≤ bits ∧ n = chunkBytes sch)
        ∨ (bits < windowBits sch ∧ bits ∈ validShort sch ∧ n = bits / 8
            ∧ acc.extractLsb' 0 (windowBits sch - 8 * (bits / 8)) = 0#_) := by
  unfold windowBytes
  split
  · next h =>
    split
    · next hv =>
      split
      · next h0 =>
        constructor
        · intro hn; exact .inr ⟨h, hv, (Option.some.inj hn).symm, h0⟩
        · rintro (⟨hle, -⟩ | ⟨-, -, hn, -⟩)
          · omega
          · rw [hn]
      · next h0 =>
        constructor
        · intro hn; cases hn
        · rintro (⟨hle, -⟩ | ⟨-, -, -, hz⟩)
          · omega
          · exact absurd hz h0
    · next hv =>
      constructor
      · intro hn; cases hn
      · rintro (⟨hle, -⟩ | ⟨-, hm, -, -⟩)
        · omega
        · exact absurd hm hv
  · next h =>
    constructor
    · intro hn; exact .inl ⟨Nat.not_lt.mp h, (Option.some.inj hn).symm⟩
    · rintro (⟨-, hn⟩ | ⟨hlt, -⟩)
      · rw [hn]
      · exact absurd hlt h

/-- The ways a character with no latched error can end. -/
theorem consumeChar_cases (data : Byte) (s : State) :
    (decLUT (schemeOf s.config) data = .pad ∧ consumeChar data s = advanceWindow { s with padSeen := true })
      ∨ (∃ v, decLUT (schemeOf s.config) data = .data v ∧ s.padSeen = true
          ∧ consumeChar data s = raise .invalidPadding s)
      ∨ (∃ v, decLUT (schemeOf s.config) data = .data v ∧ s.padSeen = false
          ∧ consumeChar data s = advanceWindow (insertGroup v s))
      ∨ (decLUT (schemeOf s.config) data = .invalid ∧ consumeChar data s = raise .invalidCharacter s) := by
  unfold consumeChar
  cases hd : decLUT (schemeOf s.config) data with
  | pad => exact .inl ⟨rfl, rfl⟩
  | data v => cases hp : s.padSeen <;> simp
  | invalid => simp

/-- `raise` with no latched error. -/
theorem raise_first (e : ErrReason) {s : State} (h : s.errReason = 0#3) :
    raise e s = { s with errReason := errCode e } := by simp [raise, h]

/-- `raise` after a latched error changes nothing. -/
theorem raise_later (e : ErrReason) {s : State} (h : s.errReason ≠ 0#3) : raise e s = s := by simp [raise, h]

/-- Placing a command makes it the command the host sends next. -/
theorem placeCommand_get (l : List CmdWord) (n : Nat) (w : CmdWord) : (placeCommand l n w)[n]? = some w := by
  induction n generalizing l with
  | zero => cases l <;> rfl
  | succ n ih => cases l <;> simp [placeCommand, ih]

theorem nextCommand_withFetchWord (s : State) (nbits w : Nat) :
    nextCommand (s.withFetchWord nbits w) = some (wordOfBits nbits w) :=
  placeCommand_get s.hostProgram s.hostPos (wordOfBits nbits w)

/-- From a state prepared by `withFetchWord`, the very next step runs that word. -/
theorem step_withFetchWord (s : State) (nbits w : Nat) :
    step (s.withFetchWord nbits w) = runWord (wordOfBits nbits w) (advanceHost (s.withFetchWord nbits w)) := by
  simp [step, nextCommand_withFetchWord]

end Sys2Proof.Laws
end

