-- ==== Sys2Proof/Laws/PerInstr.lean ====
section
/-! SUPPORT. Facts about every command as syntax, one lemma per constructor of Instr. -/

namespace Sys2Proof.Laws.EncodeFitsRow

open Sys2Proof

/-- The word of a command fits the row of the opcode map that bears its mnemonic (30_encoding.md R81, R82). -/
def Statement (i : Instr) : Prop := ∃ r ∈ opcodeMap, r.mnemonic = mnemonicOf i ∧ r.fits (encode i) = true

theorem nop : Statement .nop := ⟨⟨"NOP", 0x0000#16, 0xFFFF#16⟩, by decide⟩

theorem cfg (scheme : Scheme) (dir : Dir) (caseBit padBit : Bool) : Statement (.cfg scheme dir caseBit padBit) :=
  ⟨⟨"CFG", 0x1000#16, 0xFFE0#16⟩, by cases scheme <;> cases dir <;> cases caseBit <;> cases padBit <;> decide⟩

theorem putb (data : BitVec 8) : Statement (.putb data) :=
  ⟨⟨"PUTB", 0x2000#16, 0xFF00#16⟩, by decide, rfl, by revert data; decide⟩

theorem putc (data : BitVec 8) : Statement (.putc data) :=
  ⟨⟨"PUTC", 0x3000#16, 0xFF00#16⟩, by decide, rfl, by revert data; decide⟩

theorem endMsg : Statement .endMsg := ⟨⟨"END", 0x4000#16, 0xFFFF#16⟩, by decide⟩

theorem rdreg (reg : BitVec 4) : Statement (.rdreg reg) :=
  ⟨⟨"RDREG", 0x5000#16, 0xFFF0#16⟩, by decide, rfl, by revert reg; decide⟩

theorem rdout (addr : BitVec 12) : Statement (.rdout addr) :=
  ⟨⟨"RDOUT", 0x6000#16, 0xF000#16⟩, by decide, rfl, by
    simp only [OpcodeRow.fits, encode, beq_iff_eq]
    ext i hi
    simp only [BitVec.getElem_and, BitVec.getElem_append]
    by_cases h : i < 12
    · simp only [h, dite_true]
      have : (0xF000#16)[i] = false ∧ (0x6000#16)[i] = false := by
        clear addr; revert i; decide
      simp [this]
    · simp only [h, dite_false]
      revert i; decide⟩

theorem srst : Statement .srst := ⟨⟨"SRST", 0x7000#16, 0xFFFF#16⟩, by decide⟩

end Sys2Proof.Laws.EncodeFitsRow
end

