-- ==== Sys2Proof/Machine/Assembler.lean ====
section
/-! DEFINITION. The assembler of 30_encoding.md R88 and the pseudo-instructions of R89 that have a line of their own: a
line of text gives the command words it stands for, and none where the assembler rejects it. What R88 leaves open of
the line's lexical form is log 13. -/

namespace Sys2Proof.Machine

/-- A token of a line. -/
inductive Token where
  | word (cs : List Char)
  | char (c : Char)
  | text (cs : List Char)
  | comma
deriving DecidableEq, Repr

/-- Where the lexer stands; letters are kept in reverse order. -/
inductive LexMode where
  | plain (seen : List Char)
  | openChar
  | closeChar (c : Char)
  | text (seen : List Char)
deriving DecidableEq, Repr

/-- The word read so far, before the tokens that follow it. -/
def flushWord (seen : List Char) (rest : List Token) : List Token :=
  if seen = [] then rest else .word seen.reverse :: rest

/-- The tokens of a line; `;` outside quotes starts a comment (R88).
DESIGN CHOICE (log 13): R89 gives a double quote inside the text of `puts "<text>"` no form of its own. The text ends at
the next double quote and there is no escape, so `puts` cannot send 0x22; `putc '"'` and `putc 0x22` can. Between single
quotes stands exactly one character, whichever it is. -/
def lexLine : LexMode → List Char → Option (List Token)
  | .plain seen, [] => some (flushWord seen [])
  | .plain seen, c :: cs =>
    if c = ';' then some (flushWord seen [])
    else if c = ' ' ∨ c = '\t' then (lexLine (.plain []) cs).map (flushWord seen)
    else if c = ',' then (lexLine (.plain []) cs).map fun r => flushWord seen (.comma :: r)
    else if c = '\'' then if seen = [] then lexLine .openChar cs else none
    else if c = '"' then if seen = [] then lexLine (.text []) cs else none
    else lexLine (.plain (c :: seen)) cs
  | .openChar, [] => none
  | .openChar, c :: cs => lexLine (.closeChar c) cs
  | .closeChar _, [] => none
  | .closeChar c, d :: cs => if d = '\'' then (lexLine (.plain []) cs).map (.char c :: ·) else none
  | .text _, [] => none
  | .text seen, c :: cs =>
    if c = '"' then (lexLine (.plain []) cs).map (.text seen.reverse :: ·) else lexLine (.text (c :: seen)) cs

/-- The value of a digit in a base up to 16. -/
def digitValue (base : Nat) (c : Char) : Option Nat :=
  let n := c.toNat
  let v := if 0x30 ≤ n ∧ n ≤ 0x39 then n - 0x30
    else if 0x61 ≤ n ∧ n ≤ 0x66 then n - 0x57
    else if 0x41 ≤ n ∧ n ≤ 0x46 then n - 0x37 else 16
  if v < base then some v else none

/-- The number whose digits are given, most significant first. -/
def digitsValue (base : Nat) : Nat → List Char → Option Nat
  | n, [] => some n
  | n, c :: cs => (digitValue base c).bind fun v => digitsValue base (n * base + v) cs

/-- "Numbers are decimal, or hex with `0x`" (R88), below a limit. DESIGN CHOICE (log 13): the letter of `0x` is in lower
case, hex digits are in either case, and there is no sign. -/
def number (limit : Nat) (cs : List Char) : Option Nat :=
  let value := match cs with
    | [] => none
    | '0' :: 'x' :: [] => none
    | '0' :: 'x' :: ds => digitsValue 16 0 ds
    | ds => digitsValue 10 0 ds
  value.bind fun n => if n < limit then some n else none

/-- The scheme names of `cfg` (R88). -/
def schemeNamed (cs : List Char) : Option Scheme :=
  if cs = ['h', 'e', 'x'] then some .hex
  else if cs = ['b', '3', '2'] then some .b32
  else if cs = ['b', '6', '4'] then some .b64
  else if cs = ['b', '6', '4', 'u', 'r', 'l'] then some .b64url
  else none

/-- The register names of `rdreg`, in the order of their indices (R88). -/
def registerNames : List (List Char) :=
  [ ['i', 'd'], ['c', 'o', 'n', 'f', 'i', 'g'], ['s', 't', 'a', 't', 'u', 's'],
    ['e', 'r', 'r', '_', 'r', 'e', 'a', 's', 'o', 'n'], ['o', 'u', 't', '_', 'c', 'o', 'u', 'n', 't'],
    ['i', 'n', '_', 'c', 'o', 'u', 'n', 't'], ['d', 'e', 'p', 't', 'h'],
    ['s', 'c', 'h', 'e', 'm', 'e', '_', 'i', 'n', 'f', 'o'] ]

/-- The index of a register name, or a number 0..15 (R88). -/
def registerIndex (cs : List Char) : Option Nat :=
  if registerNames.idxOf cs < registerNames.length then some (registerNames.idxOf cs) else number 16 cs

/-- The options of an encoding `cfg`: `[, lower] [, nopad]`, as (CASE, PAD) (R88). DESIGN CHOICE (log 13): the other order
is rejected. -/
def encodeOptions : List Token → Option (Bool × Bool)
  | [] => some (false, false)
  | [.comma, .word o] =>
    if o = ['l', 'o', 'w', 'e', 'r'] then some (true, false)
    else if o = ['n', 'o', 'p', 'a', 'd'] then some (false, true) else none
  | [.comma, .word o, .comma, .word p] =>
    if o = ['l', 'o', 'w', 'e', 'r'] ∧ p = ['n', 'o', 'p', 'a', 'd'] then some (true, true) else none
  | _ => none

/-- The option of a decoding `cfg`: `[, ignore]`, as (CASE, PAD) (R88). -/
def decodeOptions : List Token → Option (Bool × Bool)
  | [] => some (false, false)
  | [.comma, .word o] => if o = ['i', 'g', 'n', 'o', 'r', 'e'] then some (false, true) else none
  | _ => none

/-- The command of a `cfg` line; the assembler rejects an illegal combination (R88). -/
def assembleCfg : List Token → Option Instr
  | .word sch :: .comma :: .word dir :: options =>
    (schemeNamed sch).bind fun s =>
      let command (d : Dir) (o : Bool × Bool) : Option Instr :=
        if legalConfig s d o.1 o.2 then some (.cfg s d o.1 o.2) else none
      if dir = ['e', 'n', 'c'] then (encodeOptions options).bind (command .encode)
      else if dir = ['d', 'e', 'c'] then (decodeOptions options).bind (command .decode)
      else none
  | _ => none

/-- The 8-bit code of a character of the host's text; a character outside 0x00..0x7F is mapped to a code ≥ 0x80
(70_reset_and_hazards.md R268). DESIGN CHOICE (log 13): that code is 0x80. -/
def charCode (c : Char) : Byte := if c.toNat ≤ 0x7F then BitVec.ofNat 8 c.toNat else 0x80#8

/-- The operands of `putbytes`: bytes separated by commas (R89).
DESIGN CHOICE (log 13): R89 does not say whether n may be 0. A `putbytes` line with no operand is rejected, while `puts ""`
and `readout 0` give no words. -/
def byteList : List Token → Option (List Byte)
  | [.word b] => (number 256 b).map fun n => [BitVec.ofNat 8 n]
  | .word b :: .comma :: rest =>
    (number 256 b).bind fun n => (byteList rest).map (BitVec.ofNat 8 n :: ·)
  | _ => none

/-- The commands of a line whose mnemonic, in lower case, is `m` (R88, R89).
DESIGN CHOICE (log 13): R88 does not say which characters are the "printable ASCII" of `putc '<c>'`. They are taken to be
0x20 to 0x7E, the space among them, although 95_test_vectors.md writes 0x20 as the non-printable `\x20`.
DESIGN CHOICE (log 13): R89 gives `readout n` no bound; n is at most 4096, the number of addresses RDOUT has. -/
def assembleTokens (m : List Char) (ts : List Token) : Option (List CmdWord) :=
  let one (o : Option Instr) : Option (List CmdWord) := o.map fun i => [encode i]
  if m = ['n', 'o', 'p'] then (if ts = [] then one (some .nop) else none)
  else if m = ['e', 'n', 'd'] then (if ts = [] then one (some .endMsg) else none)
  else if m = ['s', 'r', 's', 't'] then (if ts = [] then one (some .srst) else none)
  else if m = ['c', 'f', 'g'] then one (assembleCfg ts)
  else match ts with
    | [.word w] =>
      if m = ['p', 'u', 't', 'b'] then one ((number 256 w).map fun n => .putb (BitVec.ofNat 8 n))
      else if m = ['p', 'u', 't', 'c'] then one ((number 256 w).map fun n => .putc (BitVec.ofNat 8 n))
      else if m = ['r', 'd', 'r', 'e', 'g'] then one ((registerIndex w).map fun n => .rdreg (BitVec.ofNat 4 n))
      else if m = ['r', 'd', 'o', 'u', 't'] then one ((number 4096 w).map fun n => .rdout (BitVec.ofNat 12 n))
      else if m = ['.', 'w', 'o', 'r', 'd'] then (number 65536 w).map fun n => [BitVec.ofNat 16 n]
      else if m = ['r', 'e', 'a', 'd', 'o', 'u', 't'] then (number 4097 w).map fun n => (readout n).map encode
      else if m = ['p', 'u', 't', 'b', 'y', 't', 'e', 's'] then (byteList ts).map fun bs => (putBytes bs).map encode
      else none
    | [.char c] =>
      if m = ['p', 'u', 't', 'c'] ∧ 0x20 ≤ c.toNat ∧ c.toNat ≤ 0x7E then one (some (.putc (charCode c))) else none
    | [.text cs] =>
      if m = ['p', 'u', 't', 's'] then some ((putChars (cs.map charCode)).map encode) else none
    | _ =>
      if m = ['p', 'u', 't', 'b', 'y', 't', 'e', 's'] then (byteList ts).map fun bs => (putBytes bs).map encode
      else none

/-- The command words of a line: none at all for an empty line or a comment, and `none` where the assembler rejects
the line (R88). "mnemonics case-insensitive". -/
def assembleLine (line : List Char) : Option (List CmdWord) :=
  match lexLine (.plain []) line with
  | none => none
  | some [] => some []
  | some (.word m :: ts) => assembleTokens (m.map Char.toLower) ts
  | some _ => none

end Sys2Proof.Machine
end

