-- ==== Sys2Proof/Tests/Slice0.lean ====
section
/-! SUPPORT. The model's own tests. Expected values are taken from spec/95_test_vectors.md and from the examples in the
rules, never from the model. Then one witness for the hypotheses of every statement. -/

namespace Sys2Proof.Tests

open Sys2Proof Sys2Proof.Machine

/-! ## Well-formedness: each check refuses an ill-formed command (R24, R85) -/

theorem test_wf_refuses_hex_pad : (Instr.cfg .hex .encode false true).wellFormed = false := by decide
theorem test_wf_refuses_case_on_decode : (Instr.cfg .b32 .decode true false).wellFormed = false := by decide
theorem test_wf_refuses_case_on_b64 : (Instr.cfg .b64 .encode true false).wellFormed = false := by decide
theorem test_wf_refuses_register_8 : (Instr.rdreg 8#4).wellFormed = false := by decide
theorem test_wf_accepts_b32_lower_nopad : (Instr.cfg .b32 .encode true true).wellFormed = true := by decide
theorem test_wf_accepts_register_7 : (Instr.rdreg 7#4).wellFormed = true := by decide

/-! ## Decoding: words written out bit by bit from the formats of 30_encoding.md R81 -/

/-- Format Z, `0000 0000 0000 0000`. -/
theorem test_decode_nop : decode 0b0000000000000000#16 = .command .nop := by decide
/-- Format C, `0001 0000 000P CDSS` with P = 1, C = 0, D = 1, SS = 11: `cfg b64url, dec, ignore` is 0x1017 (R90). -/
theorem test_decode_cfg : decode 0b0001000000010111#16 = .command (.cfg .b64url .decode false true) := by decide
/-- `encodeBase32LowerCaseNoPadding` is 0x1019 (R90). -/
theorem test_decode_cfg_case : decode 0x1019#16 = .command (.cfg .b32 .encode true true) := by decide
/-- Format D, `0010 0000 DDDD DDDD` with DATA = 0x48. -/
theorem test_decode_putb : decode 0b0010000001001000#16 = .command (.putb 0x48#8) := by decide
/-- Format D, `0011 0000 CCCC CCCC` with DATA = 0x80. -/
theorem test_decode_putc : decode 0b0011000010000000#16 = .command (.putc 0x80#8) := by decide
/-- Format Z, `0100 0000 0000 0000`. -/
theorem test_decode_end : decode 0b0100000000000000#16 = .command .endMsg := by decide
/-- Format R, `0101 0000 0000 RRRR` with REG = 8, which decodes and is NAKed when it runs (R87, R210). -/
theorem test_decode_rdreg : decode 0b0101000000001000#16 = .command (.rdreg 8#4) := by decide
/-- Format A, `0110 AAAA AAAA AAAA` with ADDR = 0xA05. -/
theorem test_decode_rdout : decode 0b0110101000000101#16 = .command (.rdout 0xA05#12) := by decide
/-- Format Z, `0111 0000 0000 0000`. -/
theorem test_decode_srst : decode 0b0111000000000000#16 = .command .srst := by decide
/-- 0x7800: SRST with a nonzero zero field is reserved (95_test_vectors.md section 2). -/
theorem test_decode_srst_zero_field : decode 0x7800#16 = .reserved (.zeroField 7#4) := by decide
theorem test_decode_reserved_opcode : decode 0x9ABC#16 = .reserved (.opcode 9#4) := by decide
theorem test_decodeTableWord : decodeTableWord 16 0x6FFF = some (.rdout 0xFFF#12) := by decide
theorem test_decodeTableWord_reserved : decodeTableWord 16 0x8000 = none := by decide

/-! ## One command at a time -/

/-- The next state of an outcome. -/
def nextOf : Host.Outcome State Fault Refusal → Option State
  | .next t => some t
  | .fault _ => none
  | .refused _ => none

/-- A field of the state after a command. -/
def afterExec {α : Type} (field : State → α) (i : Instr) (s : State) : Option α := (nextOf (exec i s)).map field

/-- A message in progress with configuration `config`. -/
def inProgress (config : BitVec 5) (acc : Accum) (cnt : BitVec 4) (bits : BitVec 6) (padSeen : Bool) : State :=
  { State.reset with config := config, msgState := .active, acc := acc, cnt := cnt, bits := bits, padSeen := padSeen }

/-- The state DONE_OK with one entry, 0x48. -/
def doneOne : State :=
  { State.reset with config := 0x06#5, msgState := .doneOk, outCount := 1#13, obuf := [(0, 0x48#8)] }

/-- "after reset, `nop` (0x0000) responds 0x00000000" (R110). -/
theorem test_nop_response : afterExec State.response .nop State.reset = some (some 0x00000000#32) := by decide

/-- "from reset, `cfg b64, enc` (0x1002) responds 0x00000001, and CONFIG reads 0x02" (R111). -/
theorem test_cfg_b64 : afterExec (fun t => (t.response, t.config)) (.cfg .b64 .encode false false) State.reset
    = some (some 0x00000001#32, 0x02#5) := by decide
/-- 0x1010, HEX with PAD: 0x80000010, STATE stays IDLE (95_test_vectors.md section 2). -/
theorem test_cfg_illegal : afterExec (fun t => (t.response, t.msgState)) (.cfg .hex .encode false true) State.reset
    = some (some 0x80000010#32, .idle) := by decide

/-- The third byte of 48 65 6C on B64 emits `S` `G` `V` `s` (R141). -/
theorem test_putb_completes_chunk : afterExec (fun t => (t.outCount, t.obuf.map Prod.snd, t.acc)) (.putb 0x6C#8)
    (inProgress 0x02#5 0x486500#40 2#4 0#6 false) = some (4#13, [0x53#8, 0x47#8, 0x56#8, 0x73#8], 0#40) := by decide
/-- After `putb 0x66`, `putb 0x6F` on B64, ACC[23:0] = 0x666F00 (95_test_vectors.md section 3). -/
theorem test_putb_packs : afterExec (fun t => (t.acc, t.cnt)) (.putb 0x6F#8)
    (inProgress 0x02#5 0x660000#40 1#4 0#6 false) = some (0x666F00#40, 2#4) := by decide

/-- `SGU=`: the pad closes the window 0x486500 with 18 bits and emits 48 65 (95_test_vectors.md section 4). -/
theorem test_putc_closes_short_window : afterExec (fun t => (t.obuf, t.cnt, t.errReason)) (.putc 0x3D#8)
    (inProgress 0x06#5 0x486500#40 3#4 18#6 false) = some ([(0, 0x48#8), (1, 0x65#8)], 0#4, 0#3) := by decide
/-- `SGV=`: ACC[7:0] = 0x40 ≠ 0, so INVALID_PADDING (95_test_vectors.md section 4). -/
theorem test_putc_unused_bits : afterExec (fun t => (t.response, t.errReason)) (.putc 0x3D#8)
    (inProgress 0x06#5 0x486540#40 3#4 18#6 false) = some (some 0x00000005#32, 2#3) := by decide

/-- `foo` less a byte: EncodeFlush of 66 6F emits `Zm8=` (95_test_vectors.md section 3). -/
theorem test_end_flushes_chunk : afterExec (fun t => (t.response, t.obuf.map Prod.snd)) .endMsg
    (inProgress 0x02#5 0x666F00#40 2#4 0#6 false)
    = some (some 0x00000002#32, [0x5A#8, 0x6D#8, 0x38#8, 0x3D#8]) := by decide
/-- `SA` under Required ends in INVALID_CHARACTER, 0x00000007 (95_test_vectors.md section 4). -/
theorem test_end_missing_positions : afterExec (fun t => (t.response, t.errReason)) .endMsg
    (inProgress 0x06#5 0x480000#40 2#4 12#6 false) = some (some 0x00000007#32, 1#3) := by decide

/-- `rdreg scheme_info` at reset is 0x00000214 (95_test_vectors.md section 5). -/
theorem test_rdreg_scheme_info : afterExec State.response (.rdreg 7#4) State.reset = some (some 0x00000214#32) := by
  decide
/-- `rdreg 8` is NAKed: 0x80000010. -/
theorem test_rdreg_reserved : afterExec State.response (.rdreg 8#4) State.reset = some (some 0x80000010#32) := by decide

/-- RDOUT returns an entry, and 0x80000012 at ADDR = OUT_COUNT (R212). -/
theorem test_rdout_entry : afterExec State.response (.rdout 0#12) doneOne = some (some 0x00000048#32) := by decide
theorem test_rdout_past_end : afterExec State.response (.rdout 1#12) doneOne = some (some 0x80000012#32) := by decide

/-- After a NAK (ILL = 1), SRST responds 0x00000000 and clears ILL (R117). -/
theorem test_srst_clears_ill : afterExec (fun t => (t.response, t.ill)) .srst { State.reset with ill := true }
    = some (some 0x00000000#32, false) := by decide

/-- With OBUF_DEPTH = 1, HEX `61` overflows on its second character: ACTIVE | OVF (95_test_vectors.md section 7). -/
theorem test_putb_overflow : afterExec (fun t => (t.response, t.outCount)) (.putb 0x61#8)
    { State.resetWith 1#13 with msgState := .active } = some (some 0x00000009#32, 1#13) := by decide

/-- A word placed by withFetchWord runs in the very next step: 0x5000 responds the ID (R210). -/
theorem test_step_fetches : (nextOf (step (State.reset.withFetchWord 16 0x5000))).map State.response
    = some (some 0x52445831#32) := by decide
/-- A reserved word: 0x80000010 (95_test_vectors.md section 6). -/
theorem test_step_reserved : (nextOf (step (State.reset.withFetchWord 16 0x8000))).map State.response
    = some (some 0x80000010#32) := by decide

/-! ## The lookup tables and the host's side -/

/-- "JBSWY3DP" fixes the Base32 values 9, 1, 18, 22, 24, 27, 3 and 15 (R56). -/
theorem test_encLUT_b32 : [9, 1, 18, 22, 24, 27, 3, 15].map (encLUT .b32 false)
    = [0x4A#8, 0x42#8, 0x53#8, 0x57#8, 0x59#8, 0x33#8, 0x44#8, 0x50#8] := by decide
/-- `=` is INVALID for HEX and PAD for B32; `-` is INVALID for B64 and 62 for B64URL (R58). -/
theorem test_decLUT : [decLUT .hex 0x3D#8, decLUT .b32 0x3D#8, decLUT .b64 0x2D#8, decLUT .b64url 0x2D#8]
    = [.invalid, .pad, .invalid, .data 62#6] := by decide
/-- NE-5: "Hello" in Base64 is `SGVsbG8=`. -/
theorem test_refEncode : refEncode .b64 false false [0x48#8, 0x65#8, 0x6C#8, 0x6C#8, 0x6F#8]
    = [0x53#8, 0x47#8, 0x56#8, 0x73#8, 0x62#8, 0x47#8, 0x38#8, 0x3D#8] := by decide
/-- `SA==SGVs` decodes to 48 48 65 6C (R184). -/
theorem test_refDecode : refDecode .b64 false [0x53#8, 0x41#8, 0x3D#8, 0x3D#8, 0x53#8, 0x47#8, 0x56#8, 0x73#8]
    = .ok [0x48#8, 0x48#8, 0x65#8, 0x6C#8] := by rfl
/-- `cfg b64url, dec, ignore` is 0x1017 (R90). -/
theorem test_assemble_cfg : assembleLine ['c', 'f', 'g', ' ', 'b', '6', '4', 'u', 'r', 'l', ',', ' ', 'd', 'e', 'c', ',',
    ' ', 'i', 'g', 'n', 'o', 'r', 'e'] = some [0x1017#16] := by decide
/-- `cfg hex, enc, nopad` spells an illegal combination, which the assembler rejects (R88). -/
theorem test_assemble_rejects : assembleLine ['c', 'f', 'g', ' ', 'h', 'e', 'x', ',', ' ', 'e', 'n', 'c', ',', ' ', 'n',
    'o', 'p', 'a', 'd'] = none := by decide
/-- `RDREG depth ; size` is 0x5006, with the mnemonic in any case and a comment (R88). -/
theorem test_assemble_rdreg : assembleLine ['R', 'D', 'R', 'E', 'G', ' ', 'd', 'e', 'p', 't', 'h', ' ', ';', 's']
    = some [0x5006#16] := by decide

/-! ## Witnesses: states and operands that meet the hypotheses of each statement, clause by clause -/

/-- Every state here has the reference depth and OBUF either empty or the one entry of `doneOne`. -/
theorem obufSound_empty {s : State} (ho : s.obuf = []) (hc : s.outCount = 0#13) : ObufSound s := by
  refine ⟨by rw [ho]; rfl, ?_, ?_⟩
  · intro a ha; rw [hc] at ha; exact absurd ha (Nat.not_lt_zero a)
  · intro a ha; rw [ho] at ha; cases ha

/-- EncodeOfDecodeIsIdentity, SampleWordsDecode. -/
theorem witness_decoded_word : decode 0x1017#16 = .command (.cfg .b64url .decode false true) := by decide

/-- DecoderFollowsOpcodeMap: a row and a word that fits it; a word that fits no row. -/
theorem witness_row_word : (⟨"RDOUT", 0x6000#16, 0xF000#16⟩ : OpcodeRow) ∈ opcodeMap ∧ 0x6FFF#16 &&& 0xF000#16 = 0x6000#16 := by
  decide
theorem witness_rowless_word : ∀ r ∈ opcodeMap, 0x7001#16 &&& r.mask ≠ r.pattern := by decide

/-- A state whose host sends word `w` next. -/
def sending (w : CmdWord) : State := { State.reset with hostProgram := [w] }

/-- StepRunsDecodedCommand. -/
theorem witness_step_command : (sending 0x2048#16).hostProgram[(sending 0x2048#16).hostPos]? = some 0x2048#16
    ∧ decode 0x2048#16 = .command (.putb 0x48#8) := by decide
/-- StepOnReservedWordAndOnNoWord, both clauses. -/
theorem witness_step_reserved : (sending 0x8000#16).hostProgram[(sending 0x8000#16).hostPos]? = some 0x8000#16
    ∧ decode 0x8000#16 = .reserved (.opcode 8#4) := by decide
theorem witness_step_no_word : State.reset.hostProgram[State.reset.hostPos]? = none := by decide
/-- EveryStepAnswersNext: both branches of the position. -/
theorem witness_host_positions : (sending 0#16).hostPos < (sending 0#16).hostProgram.length
    ∧ ¬ State.reset.hostPos < State.reset.hostProgram.length := by decide

/-- NakExactlyOnListedCauses, ResponseOfEveryCommand, IllIsSetByNakAndClearedBySrstOnly: every cause, at its boundary. -/
theorem witness_nak_causes : NakCause State.reset (.cfg .hex .encode false true)
    ∧ NakCause State.reset (.cfg .b32 .decode true false) ∧ NakCause State.reset (.cfg .b64url .encode true false)
    ∧ NakCause State.reset (.putb 0#8) ∧ NakCause (inProgress 0x06#5 0#40 0#4 0#6 false) (.putb 0#8)
    ∧ NakCause State.reset (.putc 0#8) ∧ NakCause (inProgress 0x02#5 0#40 0#4 0#6 false) (.putc 0#8)
    ∧ NakCause State.reset .endMsg ∧ NakCause State.reset (.rdreg 8#4)
    ∧ NakCause State.reset (.rdout 0#12) ∧ NakCause doneOne (.rdout 1#12) := by
  simp only [NakCause]; decide
theorem witness_accepted : ¬ NakCause State.reset .nop ∧ ¬ NakCause State.reset (.cfg .b32 .encode true true)
    ∧ ¬ NakCause (inProgress 0x02#5 0#40 0#4 0#6 false) (.putb 0#8)
    ∧ ¬ NakCause (inProgress 0x06#5 0#40 0#4 0#6 false) (.putc 0#8)
    ∧ ¬ NakCause (inProgress 0x06#5 0#40 0#4 0#6 false) .endMsg ∧ ¬ NakCause State.reset (.rdreg 7#4)
    ∧ ¬ NakCause doneOne (.rdout 0#12) ∧ ¬ NakCause State.reset .srst := by
  simp only [NakCause]; decide
theorem witness_reserved_words : ReservedWord 0x8000#16 ∧ ReservedWord 0x0001#16 ∧ ReservedWord 0x4001#16
    ∧ ReservedWord 0x7001#16 ∧ ReservedWord 0x1020#16 ∧ ReservedWord 0x2100#16 ∧ ReservedWord 0x3100#16
    ∧ ReservedWord 0x5010#16 := by
  simp only [ReservedWord]
  refine ⟨?_, ?_, ?_, ?_, ?_, ?_, ?_, ?_⟩ <;> decide
/-- The zero-field clauses of NopOnlyResponds, CfgStartsMessageOrIsNaked, EndClosesMessage,
PutbPushesByteAndEmitsFullChunk, PutcOutsideDecodeMessageIsNaked and RdregReturnsEachRegister. -/
theorem witness_zero_fields : ((0x0001#16).extractLsb' 12 4 = 0#4 ∧ (0x0001#16).extractLsb' 0 12 ≠ 0#12)
    ∧ ((0x1020#16).extractLsb' 12 4 = 1#4 ∧ (0x1020#16).extractLsb' 5 7 ≠ 0#7)
    ∧ ((0x4001#16).extractLsb' 12 4 = 4#4 ∧ (0x4001#16).extractLsb' 0 12 ≠ 0#12)
    ∧ ((0x2100#16).extractLsb' 12 4 = 2#4 ∧ (0x2100#16).extractLsb' 8 4 ≠ 0#4)
    ∧ ((0x3100#16).extractLsb' 12 4 = 3#4 ∧ (0x3100#16).extractLsb' 8 4 ≠ 0#4)
    ∧ ((0x5010#16).extractLsb' 12 4 = 5#4 ∧ (0x5010#16).extractLsb' 4 8 ≠ 0#8) := by decide

/-- CfgStartsMessageOrIsNaked, ControlCommandFrame, FirstErrorIsLatchedOnce, EmptyMessageSucceeds. -/
theorem witness_legality : legalConfig .b32 .encode true true = true ∧ legalConfig .hex .decode false true = false := by
  decide

/-- InCountCountsAcceptedInput: another count of the same parity, and a command that answers. -/
theorem witness_in_count : (2#31).getLsbD 0 = State.reset.inCount.getLsbD 0 ∧ Instr.nop ≠ .rdreg 5#4
    ∧ exec .nop State.reset = .next (respondStatus State.reset) := ⟨by decide, by decide, rfl⟩

/-- A state of DONE_ERR that meets the invariants (StatusErrlFollowsErrReason). -/
def failedState : State := { State.reset with config := 0x06#5, msgState := .doneErr, errReason := 2#3 }
theorem witness_inv_doneErr : failedState.Inv ∧ failedState.msgState = .doneErr := by
  refine ⟨⟨?_, ?_, ?_, ?_, ?_, ?_, ?_, ?_, ?_, obufSound_empty rfl rfl, ?_⟩, rfl⟩
  · simp only [AccInWindow]; decide
  · simp only [WindowClearAtRest]; decide
  · intro h; cases h
  · intro h; cases h
  · simp only [OutcomeSound]; decide
  · simp only [CountSound]; decide
  · simp only [ReasonSound]; decide
  · simp only [ConfigLegal]; decide
  · decide
  · simp only [DepthLegal]; decide
/-- A state of DONE_OK with an entry that meets the invariants (StatusErrlFollowsErrReason, RdoutReturnsEmittedEntry). -/
theorem witness_inv_doneOk : doneOne.Inv ∧ doneOne.msgState = .doneOk ∧ (0#12).toNat < doneOne.outCount.toNat
    ∧ Memory.read doneOne.obuf (0#12).toNat = some 0x48#8 := by
  refine ⟨⟨?_, ?_, ?_, ?_, ?_, ?_, ?_, ?_, ?_, ?_, ?_⟩, rfl, by decide, by decide⟩
  · simp only [AccInWindow]; decide
  · simp only [WindowClearAtRest]; decide
  · intro h; cases h
  · intro h; cases h
  · simp only [OutcomeSound]; decide
  · simp only [CountSound]; decide
  · simp only [ReasonSound]; decide
  · simp only [ConfigLegal]; decide
  · decide
  · refine ⟨by decide, ?_, ?_⟩
    · intro a ha
      have h0 : a = 0 := Nat.lt_one_iff.mp ha
      subst h0; decide
    · intro a ha
      by_cases h0 : a = 0
      · subst h0; decide
      · simp [doneOne, Memory.read, h0] at ha
  · simp only [DepthLegal]; decide

/-- A decode message after `SG` on B64: two data positions, 12 bits. -/
def afterSG : State := inProgress 0x06#5 0x486000#40 2#4 12#6 false
/-- StepKeepsInvariants: a state in the middle of a window meets the invariants, and its step answers. -/
theorem witness_inv_active : afterSG.Inv ∧ step afterSG = .next afterSG := by
  refine ⟨⟨?_, ?_, ?_, ?_, ?_, ?_, ?_, ?_, ?_, obufSound_empty rfl rfl, ?_⟩, rfl⟩
  · simp only [AccInWindow]; decide
  · intro h; exact absurd rfl h
  · intro _ h; revert h; decide
  · intro _ _ _
    exact ⟨by decide, 2, by decide, by decide, by decide, by decide⟩
  · simp only [OutcomeSound]; decide
  · simp only [CountSound]; decide
  · simp only [ReasonSound]; decide
  · simp only [ConfigLegal]; decide
  · decide
  · simp only [DepthLegal]; decide
/-- InvariantsHoldAtReset: the depths at both ends of the range. -/
theorem witness_depths : (1 ≤ (1#13).toNat ∧ (1#13).toNat ≤ 4096) ∧ (1 ≤ (4096#13).toNat ∧ (4096#13).toNat ≤ 4096) := by
  decide

/-- EndClosesMessage: a message of each direction in progress, and none. -/
theorem witness_end_states : (inProgress 0x02#5 0x660000#40 1#4 0#6 false).msgState = .active ∧ afterSG.msgState = .active
    ∧ State.reset.msgState ≠ .active := by decide
/-- OddLengthIsHexDecodeWithOddInput: a HEX decode message with one character, whose END reports 3. -/
def oddHex : State := { inProgress 0x04#5 0xA0#40 1#4 4#6 false with inCount := 1#31 }
theorem witness_odd_hex : oddHex.msgState = .active ∧ oddHex.config = 0x04#5 ∧ oddHex.inCount.getLsbD 0 = true
    ∧ oddHex.errReason.toNat ≤ 2 ∧ ConfigLegal oddHex
    ∧ exec .endMsg oddHex = .next (respondStatus (closeMessage (flushMessage oddHex)))
    ∧ (respondStatus (closeMessage (flushMessage oddHex))).errReason = 3#3 ∧ [0x61#8].length % 2 = 1 :=
  ⟨rfl, rfl, by decide, by decide, by simp only [ConfigLegal]; decide, rfl, by decide, rfl⟩
/-- FailedMessageIsUnreadable: a state outside DONE_OK, and a message whose END fails. -/
theorem witness_failed_message : State.reset.msgState ≠ .doneOk ∧ afterSG.msgState = .active
    ∧ exec .endMsg afterSG = .next (respondStatus (closeMessage (flushMessage afterSG)))
    ∧ (respondStatus (closeMessage (flushMessage afterSG))).msgState = .doneErr := ⟨by decide, rfl, rfl, by decide⟩

/-- PutbPushesByteAndEmitsFullChunk: a byte that does not fill the chunk, one that does, and both rejections. -/
theorem witness_putb_not_full : let s := inProgress 0x02#5 0x660000#40 1#4 0#6 false
    s.msgState = .active ∧ s.config.getLsbD 2 = false ∧ s.cnt.toNat + 1 ≠ chunkBytes (schemeOf s.config) := by decide
theorem witness_putb_full : let s := inProgress 0x02#5 0x666F00#40 2#4 0#6 false
    s.msgState = .active ∧ s.config.getLsbD 2 = false ∧ s.cnt.toNat + 1 = chunkBytes (schemeOf s.config) := by decide
theorem witness_putb_rejected : State.reset.msgState ≠ .active ∧ afterSG.config.getLsbD 2 = true := by decide
/-- EmitStoresOrDrops: the last free entry, and a full buffer. -/
theorem witness_emit : ({ State.resetWith 4#13 with outCount := 3#13 } : State).outCount.toNat < (4#13).toNat
    ∧ (4#13).toNat ≤ ({ State.resetWith 4#13 with outCount := 4#13 } : State).outCount.toNat := by decide
/-- CharactersPerChunkTable: both values of PAD. -/
theorem witness_pad_bits : (false : Bool) = false ∧ (true : Bool) = true := by decide
/-- PartialGroupIsZeroFilledOnTheRight: one byte and two bytes of a B64 chunk. -/
theorem witness_partial_group : (1 ≤ 1 ∧ 1 < chunkBytes .b64 ∧ (0x660000#40).toNat < 2 ^ windowBits .b64
      ∧ (0x660000#40).toNat % 2 ^ (windowBits .b64 - 8 * 1) = 0 ∧ 8 * 1 % groupBits .b64 ≠ 0)
    ∧ (1 ≤ 2 ∧ 2 < chunkBytes .b64 ∧ (0x666F00#40).toNat < 2 ^ windowBits .b64
      ∧ (0x666F00#40).toNat % 2 ^ (windowBits .b64 - 8 * 2) = 0 ∧ 8 * 2 % groupBits .b64 ≠ 0) := by decide
/-- DecodeMapsInvertTheAlphabets: the first code above ASCII. -/
theorem witness_high_code : 0x80 ≤ (0x80#8).toNat := by decide
/-- CaseChangesLettersOnly: the last value of each range. -/
theorem witness_values : 15 < 16 ∧ 31 < 32 ∧ 63 < 64 := by decide

/-- PutcConsumesPadOrDataPosition: a pad that does not fill the window, and a data character that does. -/
theorem witness_putc_pad : afterSG.msgState = .active ∧ afterSG.config.getLsbD 2 = true ∧ afterSG.errReason = 0#3
    ∧ PositionConsumed afterSG 0x3D#8 { afterSG with inCount := 1#31, padSeen := true, cnt := 3#4 }
    ∧ (3#4).toNat ≠ windowChars (schemeOf afterSG.config) :=
  ⟨rfl, by decide, rfl, .inl ⟨by decide, by decide⟩, by decide⟩
/-- After `SGV` on B64. -/
def afterSGV : State := inProgress 0x06#5 0x486540#40 3#4 18#6 false
theorem witness_putc_data_fills : afterSGV.msgState = .active ∧ afterSGV.config.getLsbD 2 = true
    ∧ afterSGV.errReason = 0#3
    ∧ PositionConsumed afterSGV 0x73#8 { afterSGV with inCount := 1#31, acc := 0x48656C#40, bits := 24#6, cnt := 4#4 }
    ∧ (4#4).toNat = windowChars (schemeOf afterSGV.config) :=
  ⟨rfl, by decide, rfl, .inr ⟨44#6, by decide, by decide, by decide⟩, by decide⟩
/-- WindowCloseValidatesThenEmits: a bad bit count, bad unused bits, a valid short window and a full one. -/
theorem witness_windows : WindowRejected (inProgress 0x06#5 0x480000#40 4#4 6#6 true) ∧ WindowRejected afterSGV
    ∧ ¬ WindowRejected (inProgress 0x06#5 0x486500#40 4#4 18#6 true)
    ∧ ¬ WindowRejected (inProgress 0x06#5 0x48656C#40 4#4 24#6 false)
    ∧ afterSGV.errReason = 0#3 := by simp only [WindowRejected]; decide
/-- PutcDataAfterPadIsInvalidPadding. -/
theorem witness_data_after_pad : let s := inProgress 0x06#5 0x486000#40 3#4 12#6 true
    s.msgState = .active ∧ s.config.getLsbD 2 = true ∧ s.errReason = 0#3 ∧ s.padSeen = true
      ∧ decLUT (schemeOf s.config) 0x73#8 = .data 44#6 := by decide
/-- PutcInvalidCharacter: `!` after a pad. -/
theorem witness_invalid_character : let s := inProgress 0x06#5 0x486000#40 3#4 12#6 true
    s.msgState = .active ∧ s.config.getLsbD 2 = true ∧ s.errReason = 0#3
      ∧ decLUT (schemeOf s.config) 0x21#8 = .invalid := by decide
/-- A decode message with a latched error. -/
def latched : State := { afterSG with errReason := 2#3 }
/-- PutcAfterErrorOnlyCounts, FirstErrorIsLatchedOnce. -/
theorem witness_latched : latched.msgState = .active ∧ latched.config.getLsbD 2 = true ∧ latched.errReason ≠ 0#3
    ∧ latched.errReason.toNat ≤ 2 ∧ Instr.putc 0x41#8 ≠ .endMsg ∧ Instr.putc 0x41#8 ≠ .srst := by decide
/-- PutcOutsideDecodeMessageIsNaked. -/
theorem witness_putc_rejected : State.reset.msgState ≠ .active
    ∧ (inProgress 0x02#5 0#40 0#4 0#6 false).config.getLsbD 2 = false := by decide
/-- RdregReturnsEachRegister: the first reserved index. -/
theorem witness_reserved_register : 8 ≤ (8#4).toNat := by decide
/-- RdoutReturnsEmittedEntry: the rejections. -/
theorem witness_rdout_rejected : State.reset.msgState ≠ .doneOk ∧ doneOne.outCount.toNat ≤ (1#12).toNat := by decide
/-- ReadsHaveNoSideEffects: an accepted read and a NAKed one. -/
theorem witness_reads : ¬ NakCause doneOne (.rdout 0#12) ∧ ¬ NakCause State.reset (.rdreg 7#4)
    ∧ NakCause State.reset (.rdout 0#12) ∧ NakCause State.reset (.rdreg 15#4) := by simp only [NakCause]; decide
/-- InputCommandFrame, ControlCommandFrame. -/
theorem witness_frames : (∃ b, Instr.putb 0x61#8 = .putb b) ∧ (∃ c, Instr.putc 0x61#8 = .putc c)
    ∧ afterSG.msgState = .active := ⟨⟨_, rfl⟩, ⟨_, rfl⟩, rfl⟩

/-- EntriesAboveCountAreUnobservable: two states that differ at address 1, above OUT_COUNT, one outside DONE_OK. -/
def doneOther : State := { doneOne with obuf := [(0, 0x48#8), (1, 0xAA#8)] }
theorem witness_agree_below : AgreeBelowCount doneOne doneOther ∧ doneOther ≠ doneOne
    ∧ step doneOne = .next doneOne ∧ afterSG.msgState ≠ .doneOk := by
  refine ⟨⟨rfl, ?_⟩, by decide, rfl, by decide⟩
  intro a ha
  have h0 : a = 0 := Nat.lt_one_iff.mp ha
  subst h0; rfl
/-- WindowAfterErrorIsUnobservable. -/
theorem witness_agree_window : AgreeUpToWindow latched { latched with acc := 0x123456#40, cnt := 0#4 }
    ∧ exec .nop latched = .next (respondStatus latched) := ⟨⟨rfl, rfl, by decide, by decide⟩, rfl⟩

/-- EncodeMessageComputesReference, EncodedLengthOfEveryMessage, EncodeFailsByOverflowOnly (both sides),
RoundTripOfEveryMessage: a message of two bytes on B64, at the depth it just fits and one below. -/
theorem witness_encode_message : legalConfig .b64 .encode false false = true
    ∧ (refEncode .b64 false false [0x66#8, 0x6F#8]).length ≤ (State.resetWith 4#13).depth.toNat
    ∧ encodedLength .b64 false [0x66#8, 0x6F#8].length ≤ (State.resetWith 4#13).depth.toNat
    ∧ (State.resetWith 3#13).depth.toNat < encodedLength .b64 false [0x66#8, 0x6F#8].length
    ∧ legalConfig .b64 .decode false false = true := by decide
/-- RoundTripOfEveryMessage: unpadded text with Required, for a byte count that is no multiple of CB. -/
theorem witness_unpadded_required : legalConfig .b64 .encode false true = true
    ∧ legalConfig .b64 .decode false false = true ∧ [0x66#8, 0x6F#8].length % chunkBytes .b64 ≠ 0 := by decide
/-- DecodeMessageComputesReference: texts that decode, that overflow one entry, and that fail. -/
theorem witness_decode_message : legalConfig .b64 .decode false true = true
    ∧ refDecode .b64 true [0x53#8, 0x41#8] = .ok [0x48#8]
    ∧ refDecode .b64 true [0x53#8, 0x47#8, 0x56#8, 0x73#8] = .ok [0x48#8, 0x65#8, 0x6C#8]
    ∧ (State.resetWith 2#13).depth.toNat < [0x48#8, 0x65#8, 0x6C#8].length
    ∧ refDecode .b64 true [0x53#8] = .error .invalidPadding := ⟨by decide, rfl, rfl, by decide, rfl⟩
/-- EncodedLengthOfEveryMessage: each scheme and padding of its clauses. -/
theorem witness_lengths : legalConfig .hex .encode false false = true ∧ legalConfig .b32 .encode false false = true
    ∧ legalConfig .b64url .encode false false = true ∧ legalConfig .b32 .encode false true = true
    ∧ encodedLength .b32 true 7 ≤ State.reset.depth.toNat := by decide

end Sys2Proof.Tests
end

section
/-! PROOFS. One step of the command port on a word of the host's list (00_scope.md R13, 10_state.md R20). -/

namespace Sys2Proof.Laws

open Sys2Proof.Machine

/-- A step with a word to send runs that word once the host's position has moved. -/
theorem step_of_nextCommand {s : State} {w : CmdWord} (h : nextCommand s = some w) :
    step s = runWord w (advanceHost s) := by simp [step, h]

/-- A word that decodes to a command runs as that command's meaning. -/
theorem runWord_of_command {w : CmdWord} {i : Instr} (h : decode w = .command i) (s : State) :
    runWord w s = exec i s := by simp [runWord, h]

/-- Settles O6: the port fetches the word at the host's position, and the decoder hands its command to `exec`. -/
theorem stepRunsDecodedCommand : Obligations.StepRunsDecodedCommand := by
  intro s w i hword hdecode
  calc step s = runWord w (advanceHost s) := step_of_nextCommand hword
    _ = exec i (advanceHost s) := runWord_of_command hdecode _

end Sys2Proof.Laws
end

section
/-! PROOFS. The scheme table and the short windows (00_scope.md R7, R8). -/

namespace Sys2Proof.Laws

open Sys2Proof.Machine

theorem groupBits_pos (sch : Scheme) : 0 < groupBits sch := by cases sch <;> decide

theorem groupBits_le_eight (sch : Scheme) : groupBits sch ≤ 8 := by cases sch <;> decide

/-- The least multiple of k that holds `a` bits exceeds them by less than one group. -/
theorem mul_ceilDiv_bounds {k : Nat} (hk : 0 < k) (a : Nat) : a ≤ k * ceilDiv a k ∧ k * ceilDiv a k < a + k := by
  have hdivision : k * ceilDiv a k + (a + k - 1) % k = a + k - 1 := Nat.div_add_mod (a + k - 1) k
  have hremainder : (a + k - 1) % k < k := Nat.mod_lt _ hk
  omega

/-- The groups of a chunk of b bytes hold b whole bytes: their unused bits are fewer than one group, and no group is
wider than a byte. -/
theorem bytes_in_groups (sch : Scheme) (b : Nat) : groupBits sch * ceilDiv (8 * b) (groupBits sch) / 8 = b := by
  obtain ⟨hlow, hhigh⟩ := mul_ceilDiv_bounds (groupBits_pos sch) (8 * b)
  have hk := groupBits_le_eight sch
  omega

/-- VS lists k·⌈8·b/k⌉ for the byte counts of a short chunk, in order (R8). -/
theorem validShort_eq (sch : Scheme) : validShort sch =
    (List.range (chunkBytes sch - 1)).map (fun i => groupBits sch * ceilDiv (8 * (i + 1)) (groupBits sch)) := by
  cases sch <;> decide

/-- The i-th count of VS yields i + 1 bytes (R8). -/
theorem validShort_map_div_eight (sch : Scheme) :
    (validShort sch).map (· / 8) = (List.range (chunkBytes sch - 1)).map (· + 1) := by
  rw [validShort_eq, List.map_map]
  exact List.map_congr_left fun i _ => bytes_in_groups sch (i + 1)

/-- Settles O29: the table's rows are read off the definitions, and a count of VS yields b bytes because its groups
hold b whole bytes. -/
theorem schemeConstantsAndShortWindows : Obligations.SchemeConstantsAndShortWindows := by
  refine ⟨rfl, fun sch => ?_⟩
  obtain ⟨hchunk, hgroups⟩ := window_is_chunk sch
  exact ⟨hchunk, hgroups, validShort_eq sch, validShort_map_div_eight sch⟩

end Sys2Proof.Laws
end

section
/-! PROOFS. Every way in which a command, a word and a step can end (00_scope.md R13, 60_exceptions.md R238, R239). -/

namespace Sys2Proof.Laws

open Sys2Proof.Machine

/-! The NAK causes of R239 are the failures of the meanings' own checks. -/

theorem nakCause_cfg_iff (s : State) (sch : Scheme) (dir : Dir) (c p : Bool) :
    NakCause s (.cfg sch dir c p) ↔ legalConfig sch dir c p = false := by
  cases sch <;> cases dir <;> cases c <;> simp [NakCause, legalConfig]

theorem dirOfBit_eq_encode_iff (b : Bool) : dirOfBit b = .encode ↔ b = false := by cases b <;> decide

theorem dirOfBit_eq_decode_iff (b : Bool) : dirOfBit b = .decode ↔ b = true := by cases b <;> decide

theorem nakCause_putb_iff (s : State) (data : Byte) : NakCause s (.putb data) ↔ ¬ inMessage .encode s = true := by
  rw [inMessage_iff, dirOf, dirOfBit_eq_encode_iff, not_and_or, Bool.not_eq_false]
  rfl

theorem nakCause_putc_iff (s : State) (data : Byte) : NakCause s (.putc data) ↔ ¬ inMessage .decode s = true := by
  rw [inMessage_iff, dirOf, dirOfBit_eq_decode_iff, not_and_or, Bool.not_eq_true]
  rfl

theorem readReg_eq_none_iff (reg : BitVec 4) (s : State) : readReg reg s = none ↔ 8 ≤ reg.toNat := by
  unfold readReg
  split <;> simp_all
  omega

theorem entryReadable_iff (addr : BitVec 12) (s : State) :
    entryReadable addr s = true ↔ s.msgState = .doneOk ∧ addr.toNat < s.outCount.toNat := by simp [entryReadable]

theorem nakCause_rdout_iff (s : State) (addr : BitVec 12) :
    NakCause s (.rdout addr) ↔ ¬ entryReadable addr s = true := by
  rw [entryReadable_iff, not_and_or, Nat.not_lt]
  rfl

/-- What a command answers: one way per accepted command, and the NAK. -/
inductive CommandResult (s : State) : Instr → State → Prop
  | nop : CommandResult s .nop (respondStatus s)
  | cfg {sch dir c p} (legal : legalConfig sch dir c p = true) :
      CommandResult s (.cfg sch dir c p) (respondStatus (beginMessage (configBits sch dir c p) s))
  | putb {data} (encoding : inMessage .encode s = true) :
      CommandResult s (.putb data) (respondStatus (completeChunk (insertByte data (countInput s))))
  | putc {data} (decoding : inMessage .decode s = true) :
      CommandResult s (.putc data) (respondStatus (acceptChar data s))
  | endMsg (active : s.msgState = .active) :
      CommandResult s .endMsg (respondStatus (closeMessage (flushMessage s)))
  | rdreg {reg v} (value : readReg reg s = some v) : CommandResult s (.rdreg reg) (respond v s)
  | rdout {addr} (readable : entryReadable addr s = true) :
      CommandResult s (.rdout addr) (respond ((obufEntry s.obuf addr.toNat).setWidth 31) s)
  | srst : CommandResult s .srst (respond 0#31 (softReset s))
  | naked {i} (cause : NakCause s i) : CommandResult s i (nak s)

/-- A command with a NAK cause is NAKed. -/
theorem exec_of_nakCause {s : State} {i : Instr} (h : NakCause s i) : exec i s = .next (nak s) := by
  cases i with
  | nop | srst => exact h.elim
  | cfg sch dir c p => exact execCfg_illegal s ((nakCause_cfg_iff s sch dir c p).mp h)
  | putb data => exact execPutb_rejected data (Bool.not_eq_true _ ▸ (nakCause_putb_iff s data).mp h)
  | putc data => exact execPutc_rejected data (Bool.not_eq_true _ ▸ (nakCause_putc_iff s data).mp h)
  | endMsg => exact execEnd_rejected h
  | rdreg reg => simp [exec, execRdreg, (readReg_eq_none_iff reg s).mpr h]
  | rdout addr => simp [exec, execRdout, (nakCause_rdout_iff s addr).mp h]

theorem CommandResult.exec_eq {s t : State} {i : Instr} (h : CommandResult s i t) : exec i s = .next t := by
  cases h with
  | nop | srst => rfl
  | cfg legal => exact execCfg_legal s legal
  | putb encoding => exact execPutb_accepted _ encoding
  | putc decoding => exact execPutc_accepted _ decoding
  | endMsg active => exact execEnd_accepted active
  | rdreg value => simp [exec, execRdreg, value]
  | rdout readable => simp [exec, execRdout, readable]
  | naked cause => exact exec_of_nakCause cause

/-- Every command answers: a command without a NAK cause is accepted. -/
theorem exists_commandResult (s : State) (i : Instr) : ∃ t, CommandResult s i t := by
  by_cases cause : NakCause s i
  · exact ⟨_, .naked cause⟩
  cases i with
  | nop => exact ⟨_, .nop⟩
  | srst => exact ⟨_, .srst⟩
  | cfg sch dir c p => exact ⟨_, .cfg (by simpa [nakCause_cfg_iff] using cause)⟩
  | putb data => exact ⟨_, .putb (by simpa [nakCause_putb_iff] using cause)⟩
  | putc data => exact ⟨_, .putc (by simpa [nakCause_putc_iff] using cause)⟩
  | endMsg => exact ⟨_, .endMsg (Decidable.not_not.mp cause)⟩
  | rdreg reg =>
    obtain ⟨v, value⟩ := Option.ne_none_iff_exists'.mp (mt (readReg_eq_none_iff reg s).mp cause)
    exact ⟨_, .rdreg value⟩
  | rdout addr => exact ⟨_, .rdout (by simpa [nakCause_rdout_iff] using cause)⟩

theorem exec_eq_next_iff {s t : State} {i : Instr} : exec i s = .next t ↔ CommandResult s i t := by
  refine ⟨fun h => ?_, CommandResult.exec_eq⟩
  obtain ⟨u, hu⟩ := exists_commandResult s i
  obtain rfl : u = t := Host.Outcome.next.inj (hu.exec_eq.symm.trans h)
  exact hu

/-- An accepted command has no NAK cause, and a NAK changes the response and ILL only: the two ways of R238. -/
theorem CommandResult.accepted_or_naked {s t : State} {i : Instr} (h : CommandResult s i t) :
    ¬ NakCause s i ∨ (NakCause s i ∧ t = nak s) := by
  cases h with
  | nop | srst => exact .inl id
  | cfg legal => exact .inl (by simp [nakCause_cfg_iff, legal])
  | putb encoding => exact .inl (by simp [nakCause_putb_iff, encoding])
  | putc decoding => exact .inl (by simp [nakCause_putc_iff, decoding])
  | endMsg active => exact .inl (not_not_intro active)
  | rdreg value => exact .inl fun cause => by simp [(readReg_eq_none_iff _ s).mpr cause] at value
  | rdout readable => exact .inl (by simp [nakCause_rdout_iff, readable])
  | naked cause => exact .inr ⟨cause, rfl⟩

/-! Words -/

/-- A word of R84's and R85's list decodes to no command. -/
theorem decode_of_reservedWord {w : CmdWord} (h : ReservedWord w) : ∃ why, decode w = .reserved why := by
  obtain hop | ⟨hop | hop | hop, hz⟩ | ⟨hop, hz⟩ | ⟨hop | hop, hz⟩ | ⟨hop, hz⟩ := h
  case inl =>
    have hne (k : BitVec 4) (hk : k.toNat < 8) : w.extractLsb' 12 4 ≠ k := fun he => by
      rw [he] at hop
      exact absurd hk (Nat.not_lt.mpr hop)
    exact ⟨.opcode (w.extractLsb' 12 4), by simp [decode, hne]⟩
  all_goals exact ⟨.zeroField (w.extractLsb' 12 4), by simp [decode, hop, hz, unlessZeroField]⟩

theorem runWord_of_reserved {w : CmdWord} {why : Reserved} (h : decode w = .reserved why) (s : State) :
    runWord w s = .next (nak s) := by simp [runWord, h, execReserved]

theorem runWord_of_reservedWord {w : CmdWord} (h : ReservedWord w) (s : State) : runWord w s = .next (nak s) := by
  obtain ⟨why, hwhy⟩ := decode_of_reservedWord h
  exact runWord_of_reserved hwhy s

theorem step_of_no_command {s : State} (h : nextCommand s = none) : step s = .next s := by simp [step, h]

/-- What a step answers: the same state, a reserved word's NAK, or what the word's command answers. -/
inductive StepResult (s : State) : State → Prop
  | noWord (word : nextCommand s = none) : StepResult s s
  | reserved {w why} (word : nextCommand s = some w) (decoded : decode w = .reserved why) :
      StepResult s (nak (advanceHost s))
  | command {w i t} (word : nextCommand s = some w) (decoded : decode w = .command i)
      (result : CommandResult (advanceHost s) i t) : StepResult s t

theorem StepResult.step_eq {s t : State} (h : StepResult s t) : step s = .next t := by
  cases h with
  | noWord word => exact step_of_no_command word
  | reserved word decoded => exact (step_of_nextCommand word).trans (runWord_of_reserved decoded _)
  | command word decoded result =>
    exact (step_of_nextCommand word).trans ((runWord_of_command decoded _).trans result.exec_eq)

/-- Every step answers: the word is none, reserved or a command. -/
theorem exists_stepResult (s : State) : ∃ t, StepResult s t := by
  cases word : nextCommand s with
  | none => exact ⟨s, .noWord word⟩
  | some w =>
    cases decoded : decode w with
    | reserved why => exact ⟨_, .reserved word decoded⟩
    | command i =>
      obtain ⟨t, result⟩ := exists_commandResult (advanceHost s) i
      exact ⟨t, .command word decoded result⟩

theorem step_eq_next_iff {s t : State} : step s = .next t ↔ StepResult s t := by
  refine ⟨fun h => ?_, StepResult.step_eq⟩
  obtain ⟨u, hu⟩ := exists_stepResult s
  obtain rfl : u = t := Host.Outcome.next.inj (hu.step_eq.symm.trans h)
  exact hu

/-- There is a next word exactly while the host's position stands inside its list (10_state.md R20). -/
theorem hostPos_lt_iff (s : State) : s.hostPos < s.hostProgram.length ↔ (nextCommand s).isSome = true := by
  simp [nextCommand]

end Sys2Proof.Laws
end

section
/-! PROOFS. What the operations inside a message leave alone, and the registers that few commands write: the host's
side, STATUS.ILL, STATUS.STATE and CONFIG (10_state.md R20, R22, R25, R26). -/

namespace Sys2Proof.Laws

open Sys2Proof.Machine

/-! The ways the operations of the decode path branch -/

theorem advanceWindow_cases (s : State) :
    ((s.cnt + 1#4).toNat ≠ windowChars (schemeOf s.config) ∧ advanceWindow s = { s with cnt := s.cnt + 1#4 })
      ∨ ((s.cnt + 1#4).toNat = windowChars (schemeOf s.config)
          ∧ advanceWindow s = windowClose { s with cnt := s.cnt + 1#4 }) := by
  by_cases h : (s.cnt + 1#4).toNat = windowChars (schemeOf s.config)
  · exact .inr ⟨h, if_pos h⟩
  · exact .inl ⟨h, if_neg h⟩

theorem flushWindow_cases (s : State) :
    flushWindow s = s ∨ flushWindow s = windowClose s ∨ flushWindow s = raise .invalidCharacter s := by
  unfold flushWindow
  cases schemeOf s.config <;> cases padOf s.config <;> simp

/-! The frame -/

/-- What the operations on the window and the output leave alone. -/
structure MessageFrame (s t : State) : Prop where
  config : t.config = s.config
  msgState : t.msgState = s.msgState
  ill : t.ill = s.ill
  inCount : t.inCount = s.inCount
  depth : t.depth = s.depth
  hostProgram : t.hostProgram = s.hostProgram
  hostPos : t.hostPos = s.hostPos

theorem MessageFrame.refl (s : State) : MessageFrame s s := ⟨rfl, rfl, rfl, rfl, rfl, rfl, rfl⟩

theorem MessageFrame.trans {s t u : State} (h : MessageFrame s t) (k : MessageFrame t u) : MessageFrame s u :=
  ⟨k.config.trans h.config, k.msgState.trans h.msgState, k.ill.trans h.ill, k.inCount.trans h.inCount,
    k.depth.trans h.depth, k.hostProgram.trans h.hostProgram, k.hostPos.trans h.hostPos⟩

theorem raise_frame (e : ErrReason) (s : State) : MessageFrame s (raise e s) := by constructor <;> simp

theorem emitAll_messageFrame (xs : List Byte) (s : State) : MessageFrame s (emitAll xs s) := by constructor <;> simp

theorem clearWindow_frame (s : State) : MessageFrame s (clearWindow s) := by constructor <;> simp

theorem clearChunk_frame (s : State) : MessageFrame s (clearChunk s) := by constructor <;> simp

theorem insertByte_frame (data : Byte) (s : State) : MessageFrame s (insertByte data s) := by constructor <;> simp

theorem insertGroup_frame (v : BitVec 6) (s : State) : MessageFrame s (insertGroup v s) := by constructor <;> simp

theorem windowClose_frame (s : State) : MessageFrame s (windowClose s) := by
  obtain ⟨-, h⟩ | ⟨n, -, h⟩ := windowClose_cases s <;> rw [h]
  · exact raise_frame _ s
  · exact (emitAll_messageFrame _ s).trans (clearWindow_frame _)

theorem advanceWindow_frame (s : State) : MessageFrame s (advanceWindow s) := by
  have hstep : MessageFrame s { s with cnt := s.cnt + 1#4 } := ⟨rfl, rfl, rfl, rfl, rfl, rfl, rfl⟩
  obtain ⟨-, h⟩ | ⟨-, h⟩ := advanceWindow_cases s <;> rw [h]
  · exact hstep
  · exact hstep.trans (windowClose_frame _)

theorem consumeChar_frame (data : Byte) (s : State) : MessageFrame s (consumeChar data s) := by
  have hpad : MessageFrame s { s with padSeen := true } := ⟨rfl, rfl, rfl, rfl, rfl, rfl, rfl⟩
  obtain ⟨-, h⟩ | ⟨v, -, -, h⟩ | ⟨v, -, -, h⟩ | ⟨-, h⟩ := consumeChar_cases data s <;> rw [h]
  · exact hpad.trans (advanceWindow_frame _)
  · exact raise_frame _ s
  · exact (insertGroup_frame v s).trans (advanceWindow_frame _)
  · exact raise_frame _ s

/-- PUTC counts its character, and leaves the rest of the frame alone. -/
theorem acceptChar_frame (data : Byte) (s : State) : MessageFrame (countInput s) (acceptChar data s) := by
  unfold acceptChar
  split
  · exact consumeChar_frame data _
  · exact .refl _

theorem completeChunk_frame (s : State) : MessageFrame s (completeChunk s) := by
  obtain ⟨-, h⟩ | ⟨-, h⟩ := completeChunk_cases s <;> rw [h]
  · exact .refl s
  · exact (emitAll_messageFrame _ s).trans (clearChunk_frame _)

/-- PUTB counts its byte, and leaves the rest of the frame alone. -/
theorem putByte_frame (data : Byte) (s : State) :
    MessageFrame (countInput s) (completeChunk (insertByte data (countInput s))) :=
  (insertByte_frame data _).trans (completeChunk_frame _)

theorem encodeFlush_frame (s : State) : MessageFrame s (encodeFlush s) := by
  refine MessageFrame.trans ?_ (clearChunk_frame _)
  split
  · exact emitAll_messageFrame _ s
  · exact .refl s

theorem flushWindow_frame (s : State) : MessageFrame s (flushWindow s) := by
  obtain h | h | h := flushWindow_cases s <;> rw [h]
  · exact .refl s
  · exact windowClose_frame s
  · exact raise_frame _ s

theorem decodeFlush_frame (s : State) : MessageFrame s (decodeFlush s) := by
  refine MessageFrame.trans ?_ (clearWindow_frame _)
  split
  · exact flushWindow_frame s
  · exact .refl s

theorem flushMessage_frame (s : State) : MessageFrame s (flushMessage s) := by
  unfold flushMessage
  split
  · exact encodeFlush_frame s
  · exact decodeFlush_frame s

/-! closeMessage -/

@[simp] theorem closeMessage_config (s : State) : (closeMessage s).config = s.config := by simp [closeMessage]
@[simp] theorem closeMessage_ill (s : State) : (closeMessage s).ill = s.ill := by simp [closeMessage]
@[simp] theorem closeMessage_inCount (s : State) : (closeMessage s).inCount = s.inCount := by simp [closeMessage]
@[simp] theorem closeMessage_depth (s : State) : (closeMessage s).depth = s.depth := by simp [closeMessage]
@[simp] theorem closeMessage_hostProgram (s : State) : (closeMessage s).hostProgram = s.hostProgram := by
  simp [closeMessage]
@[simp] theorem closeMessage_hostPos (s : State) : (closeMessage s).hostPos = s.hostPos := by simp [closeMessage]
@[simp] theorem closeMessage_errReason (s : State) : (closeMessage s).errReason = finalReason s := by
  simp [closeMessage]

theorem commit_msgState (r : BitVec 3) (s : State) :
    (commit r s).msgState = if r = 0#3 then .doneOk else .doneErr := by unfold commit; split <;> rfl

/-- The outcome of END is told by the reason it leaves (40_control.md R116). -/
theorem closeMessage_msgState (s : State) :
    (closeMessage s).msgState = if (closeMessage s).errReason = 0#3 then .doneOk else .doneErr := by
  rw [closeMessage_errReason]
  exact commit_msgState _ _

/-! One register after every command -/

/-- No command moves the host's position or changes its list (R20). -/
theorem CommandResult.host {s t : State} {i : Instr} (h : CommandResult s i t) :
    t.hostProgram = s.hostProgram ∧ t.hostPos = s.hostPos := by
  cases h with
  | nop | cfg | rdreg | rdout | srst | naked => exact ⟨rfl, rfl⟩
  | @putb data => exact ⟨(putByte_frame data s).hostProgram, (putByte_frame data s).hostPos⟩
  | @putc data => exact ⟨(acceptChar_frame data s).hostProgram, (acceptChar_frame data s).hostPos⟩
  | endMsg => simp [(flushMessage_frame s).hostProgram, (flushMessage_frame s).hostPos]

/-- An accepted command other than SRST keeps ILL (R25). -/
theorem CommandResult.ill_of_accepted {s t : State} {i : Instr} (h : CommandResult s i t) (accepted : ¬ NakCause s i)
    (hi : i ≠ .srst) : t.ill = s.ill := by
  cases h with
  | nop | cfg | rdreg | rdout => rfl
  | @putb data => exact (putByte_frame data s).ill
  | @putc data => exact (acceptChar_frame data s).ill
  | endMsg => simp [(flushMessage_frame s).ill]
  | srst => exact absurd rfl hi
  | naked cause => exact absurd cause accepted

/-- Settles O8: a step without a word changes nothing, and the command a word runs leaves the position that the port
has moved. -/
theorem everyStepAnswersNext : Obligations.EveryStepAnswersNext := by
  intro s
  obtain ⟨t, ht⟩ := exists_stepResult s
  refine ⟨t, ht.step_eq, ?_⟩
  simp only [hostPos_lt_iff]
  cases ht with
  | noWord word => simp [word]
  | reserved word => simp [word]
  | command word _ result => simpa [word] using result.host

/-- Settles O10: a NAK sets ILL, and of the accepted commands only SRST writes it. -/
theorem illIsSetByNakAndClearedBySrstOnly : Obligations.IllIsSetByNakAndClearedBySrstOnly := by
  refine ⟨fun s i => ?_, fun s w hw => ⟨nak s, runWord_of_reservedWord hw s, rfl⟩⟩
  obtain ⟨t, ht⟩ := exists_commandResult s i
  refine ⟨t, ht.exec_eq, ?_⟩
  obtain accepted | ⟨cause, rfl⟩ := ht.accepted_or_naked
  · by_cases hi : i = .srst
    · subst hi
      cases ht with
      | srst => simp
      | naked cause => exact cause.elim
    · simp [ht.ill_of_accepted accepted hi, hi, accepted]
  · have hi : i ≠ .srst := by rintro rfl; exact cause
    simp [cause, hi]

/-- Settles O11: CFG, END and SRST write STATE, and every other operation leaves it alone. -/
theorem stateMovesOnlyAsListed : Obligations.StateMovesOnlyAsListed := by
  refine ⟨fun s i => ?_, fun s w hw => ⟨nak s, runWord_of_reservedWord hw s, rfl⟩, fun d => rfl⟩
  obtain ⟨t, ht⟩ := exists_commandResult s i
  refine ⟨t, ht.exec_eq, ?_⟩
  cases ht with
  | nop | rdreg | rdout | srst => rfl
  | cfg legal => exact (if_pos legal).symm
  | @putb data => exact (putByte_frame data s).msgState
  | @putc data => exact (acceptChar_frame data s).msgState
  | endMsg active => exact (closeMessage_msgState _).trans (if_pos active).symm
  | naked cause =>
    cases i with
    | cfg sch dir c p => simp [(nakCause_cfg_iff s sch dir c p).mp cause]
    | endMsg => exact (if_neg cause).symm
    | nop | srst => exact cause.elim
    | putb | putc | rdreg | rdout => rfl

/-- CFG's operand bits are its word's low five bits (30_encoding.md R81). -/
theorem encode_cfg_low_bits (sch : Scheme) (dir : Dir) (c p : Bool) :
    (encode (.cfg sch dir c p)).extractLsb' 0 5 = configBits sch dir c p :=
  BitVec.extractLsb'_append_eq_right

/-- Settles O12: CFG and SRST write CONFIG, and every other operation leaves it alone. -/
theorem configWrittenByCfgAndResetOnly : Obligations.ConfigWrittenByCfgAndResetOnly := by
  refine ⟨fun s i => ?_, fun s w hw => ⟨nak s, runWord_of_reservedWord hw s, rfl⟩, fun d => rfl, fun s => ?_⟩
  · obtain ⟨t, ht⟩ := exists_commandResult s i
    refine ⟨t, ht.exec_eq, ?_⟩
    cases ht with
    | nop | rdreg | rdout | srst => rfl
    | cfg legal => simp [legal, encode_cfg_low_bits]
    | @putb data => exact (putByte_frame data s).config
    | @putc data => exact (acceptChar_frame data s).config
    | endMsg => exact (closeMessage_config _).trans (flushMessage_frame s).config
    | naked cause =>
      cases i with
      | cfg sch dir c p => simp [(nakCause_cfg_iff s sch dir c p).mp cause]
      | nop | srst => exact cause.elim
      | putb | putc | endMsg | rdreg | rdout => rfl
  · have hread : CommandResult s (.rdreg 1#4) (respond (s.config.setWidth 31) s) := .rdreg rfl
    rw [hread.exec_eq, respond, BitVec.setWidth_setWidth (by decide)]

end Sys2Proof.Laws
end

section
/-! PROOFS. The invariants between commands: the registers apart from the window, the window state while a message is
in progress, and their preservation by every step (10_state.md R39). -/

namespace Sys2Proof.Laws

open Sys2Proof.Machine

/-! The invariants that do not read the window state -/

/-- The invariants of R39 that speak of the registers and OBUF only. -/
structure RegistersSound (s : State) : Prop where
  outcome : OutcomeSound s
  count : CountSound s
  reason : ReasonSound s
  configLegal : ConfigLegal s
  obuf : ObufSound s
  depth : DepthLegal s

/-- The window state is clear: ACC, CNT, BITS and PADSEEN are 0. -/
def WindowClear (s : State) : Prop := s.acc = 0#40 ∧ s.cnt = 0#4 ∧ s.bits = 0#6 ∧ s.padSeen = false

theorem registersSound_of_inv {s : State} (h : s.Inv) : RegistersSound s :=
  ⟨h.outcome, h.count, h.reason, h.configLegal, h.obuf, h.depth⟩

/-- ILL, IN_COUNT, the response and the host's position stand in no invariant. -/
theorem inv_congr {s t : State} (h : s.Inv) (same : t = { s with
    ill := t.ill, inCount := t.inCount, response := t.response, hostPos := t.hostPos }) : t.Inv := by
  rw [same]
  exact ⟨h.accInWindow, h.windowClearAtRest, h.encodeChunk, h.decodeWindow, h.outcome, h.count, h.reason,
    h.configLegal, h.bitsInWindow, h.obuf, h.depth⟩

theorem RegistersSound.congr {s t : State} (h : RegistersSound s) (same : t = { s with
    ill := t.ill, inCount := t.inCount, response := t.response, hostPos := t.hostPos,
    acc := t.acc, cnt := t.cnt, bits := t.bits, padSeen := t.padSeen }) : RegistersSound t := by
  rw [same]
  exact ⟨h.outcome, h.count, h.reason, h.configLegal, h.obuf, h.depth⟩

theorem chunkBytes_pos (sch : Scheme) : 0 < chunkBytes sch := by cases sch <;> decide

theorem windowChars_pos (sch : Scheme) : 0 < windowChars sch := by cases sch <;> decide

theorem windowChars_le_eight (sch : Scheme) : windowChars sch ≤ 8 := by cases sch <;> decide

theorem chunkBytes_le_five (sch : Scheme) : chunkBytes sch ≤ 5 := by cases sch <;> decide

/-- A clear window meets every invariant about the window, in every state of the message. -/
theorem inv_of_windowClear {s : State} (hregs : RegistersSound s) (hclear : WindowClear s) : s.Inv := by
  obtain ⟨hacc, hcnt, hbits, hpad⟩ := hclear
  have hchunk := chunkBytes_pos (schemeOf s.config)
  have hwindow := windowChars_pos (schemeOf s.config)
  exact {
    accInWindow := by simp [AccInWindow, hacc]
    windowClearAtRest := fun _ => ⟨hacc, hcnt, hbits, hpad⟩
    encodeChunk := fun _ _ => ⟨by simpa [hcnt] using hchunk, by simp [hacc], hbits, hpad⟩
    decodeWindow := fun _ _ _ => ⟨by simpa [hcnt] using hwindow, 0, by simp [hcnt, hbits, hpad, hacc]⟩
    outcome := hregs.outcome
    count := hregs.count
    reason := hregs.reason
    configLegal := hregs.configLegal
    bitsInWindow := by simp [hbits]
    obuf := hregs.obuf
    depth := hregs.depth }

/-! Reset and CFG -/

theorem configLegal_zero : legalConfig (schemeOf 0#5) (dirOf 0#5) (caseOf 0#5) (padOf 0#5) = true := by decide

/-- A state after reset, whatever the fields that reset leaves to the host. -/
theorem resetWith_registers {d : BitVec 13} (hd : 1 ≤ d.toNat ∧ d.toNat ≤ Config.maxDepth) :
    RegistersSound (State.resetWith d) where
  outcome := ⟨nofun, nofun⟩
  count := ⟨Nat.zero_le _, nofun⟩
  reason := ⟨Nat.zero_le _, nofun, nofun, fun _ => rfl⟩
  configLegal := configLegal_zero
  obuf := ⟨rfl, fun a ha => absurd ha (Nat.not_lt_zero a), nofun⟩
  depth := hd

theorem resetWith_inv {d : BitVec 13} (hd : 1 ≤ d.toNat ∧ d.toNat ≤ Config.maxDepth) : (State.resetWith d).Inv :=
  inv_of_windowClear (resetWith_registers hd) ⟨rfl, rfl, rfl, rfl⟩

theorem softReset_inv {s : State} (h : s.Inv) : (softReset s).Inv := by
  refine inv_of_windowClear ?_ ⟨rfl, rfl, rfl, rfl⟩
  obtain ⟨houtcome, hcount, hreason, hlegal, hobuf, hdepth⟩ := resetWith_registers h.depth
  exact ⟨houtcome, hcount, hreason, hlegal, hobuf, hdepth⟩

theorem beginMessage_inv {s : State} {sch : Scheme} {dir : Dir} {c p : Bool} (legal : legalConfig sch dir c p = true)
    (h : s.Inv) : (beginMessage (configBits sch dir c p) s).Inv := by
  obtain ⟨hwf, -, hbound⟩ := h.obuf
  refine inv_of_windowClear ?_ ⟨rfl, rfl, rfl, rfl⟩
  exact {
    outcome := ⟨nofun, nofun⟩
    count := ⟨Nat.zero_le _, nofun⟩
    reason := ⟨Nat.zero_le _, fun _ => Nat.zero_le _, fun _ _ => rfl, nofun⟩
    configLegal := by simpa [ConfigLegal] using legal
    obuf := ⟨hwf, fun a ha => absurd ha (Nat.not_lt_zero a), hbound⟩
    depth := h.depth }

/-! Emit, raise and END -/

theorem outcomeSound_of_active {s : State} (active : s.msgState = .active) : OutcomeSound s := by
  simp [OutcomeSound, active]

/-- While a message is in progress, OVF says that OBUF is full. -/
theorem outCount_eq_depth_of_ovf {s : State} (h : CountSound s) (active : s.msgState = .active) (hovf : s.ovf = true) :
    s.outCount = s.depth := (h.2 hovf).resolve_right (by simp [active])

theorem countSound_emit (x : Byte) {s : State} (h : CountSound s) (active : s.msgState = .active) :
    CountSound (emit x s) := by
  by_cases room : s.outCount.toNat < s.depth.toNat
  · refine ⟨by rw [emit_room_outCount x room, emit_depth]; exact room, fun hovf => ?_⟩
    rw [emit_room_ovf x room] at hovf
    have hfull := outCount_eq_depth_of_ovf h active hovf
    exact absurd room (by simp [hfull])
  · have hfull : s.depth.toNat ≤ s.outCount.toNat := Nat.not_lt.mp room
    rw [emit_full x hfull]
    exact ⟨h.1, fun _ => .inl (BitVec.eq_of_toNat_eq (Nat.le_antisymm h.1 hfull))⟩

theorem obufSound_emit (x : Byte) {s : State} (h : ObufSound s) : ObufSound (emit x s) := by
  obtain ⟨hwf, hwritten, hbound⟩ := h
  by_cases room : s.outCount.toNat < s.depth.toNat
  · have hread (a : Nat) : (Memory.read (emit x s).obuf a).isSome = true ↔
        a = s.outCount.toNat ∨ (Memory.read s.obuf a).isSome = true := by
      rw [emit_room_obuf x room, read_write]
      split <;> simp [*]
    refine ⟨emit_keeps_wf x hwf, fun a ha => ?_, fun a ha => ?_⟩
    · rw [emit_room_outCount x room] at ha
      obtain hlt | heq := Nat.lt_succ_iff_lt_or_eq.mp ha
      · exact (hread a).mpr (.inr (hwritten a hlt))
      · exact (hread a).mpr (.inl heq)
    · rw [emit_depth]
      obtain rfl | hold := (hread a).mp ha
      · exact room
      · exact hbound a hold
  · rw [emit_full x (Nat.not_lt.mp room)]
    exact ⟨hwf, hwritten, hbound⟩

theorem RegistersSound.emit (x : Byte) {s : State} (h : RegistersSound s) (active : s.msgState = .active) :
    RegistersSound (emit x s) where
  outcome := outcomeSound_of_active (by simpa using active)
  count := countSound_emit x h.count active
  reason := by simpa [ReasonSound] using h.reason
  configLegal := by simpa [ConfigLegal] using h.configLegal
  obuf := obufSound_emit x h.obuf
  depth := by simpa [DepthLegal] using h.depth

theorem RegistersSound.emitAll (xs : List Byte) {s : State} (h : RegistersSound s) (active : s.msgState = .active) :
    RegistersSound (emitAll xs s) := by
  induction xs generalizing s with
  | nil => exact h
  | cons x xs ih => exact ih (h.emit x active) (by simpa using active)

/-- A decode message may latch a format error, code 1 or 2 (60_exceptions.md R230). -/
theorem RegistersSound.raise {e : ErrReason} {s : State} (h : RegistersSound s) (active : s.msgState = .active)
    (decoding : dirOf s.config = .decode) (he : (errCode e).toNat ≤ 2) : RegistersSound (raise e s) := by
  by_cases hreason : s.errReason = 0#3
  · rw [raise_first e hreason]
    exact {
      outcome := outcomeSound_of_active active
      count := h.count
      reason := ⟨Nat.le_trans he (by decide), fun _ => he, by simp [decoding], by simp [active]⟩
      configLegal := h.configLegal
      obuf := h.obuf
      depth := h.depth }
  · rwa [raise_later e hreason]

theorem finalReason_le_four {s : State} (h : s.errReason.toNat ≤ 4) : (finalReason s).toNat ≤ 4 := by
  unfold finalReason
  split
  · decide
  · split
    · decide
    · exact h

theorem commit_outCount (r : BitVec 3) (s : State) :
    (commit r s).outCount = if r = 0#3 then s.outCount else 0#13 := by unfold commit; split <;> rfl

theorem closeMessage_outCount (s : State) :
    (closeMessage s).outCount = if finalReason s = 0#3 then s.outCount else 0#13 := commit_outCount _ _

@[simp] theorem closeMessage_ovf (s : State) : (closeMessage s).ovf = s.ovf := by simp [closeMessage]
@[simp] theorem closeMessage_obuf (s : State) : (closeMessage s).obuf = s.obuf := by simp [closeMessage]

theorem closeMessage_windowClear (s : State) : WindowClear (closeMessage s) := ⟨rfl, rfl, rfl, rfl⟩

theorem RegistersSound.closeMessage {s : State} (h : RegistersSound s) (active : s.msgState = .active) :
    RegistersSound (closeMessage s) := by
  obtain ⟨hwf, hwritten, hbound⟩ := h.obuf
  have hstate := closeMessage_msgState s
  have hcount := closeMessage_outCount s
  rw [closeMessage_errReason] at hstate
  have hdone : (Machine.closeMessage s).msgState ≠ .active ∧ (Machine.closeMessage s).msgState ≠ .idle := by
    rw [hstate]; split <;> decide
  exact {
    outcome := by
      rw [OutcomeSound, hstate, hcount, closeMessage_errReason]
      split <;> simp [*]
    count := by
      rw [CountSound, hstate, hcount, closeMessage_ovf, closeMessage_depth]
      split
      · exact ⟨h.count.1, fun hovf => .inl (outCount_eq_depth_of_ovf h.count active hovf)⟩
      · exact ⟨Nat.zero_le _, fun _ => .inr ⟨rfl, rfl⟩⟩
    reason := by
      refine ⟨?_, fun ha => absurd ha hdone.1, fun ha => absurd ha hdone.1, fun hi => absurd hi hdone.2⟩
      rw [closeMessage_errReason]
      exact finalReason_le_four h.reason.1
    configLegal := by simpa [ConfigLegal] using h.configLegal
    obuf := by
      rw [ObufSound, hcount, closeMessage_obuf, closeMessage_depth]
      refine ⟨hwf, fun a ha => hwritten a ?_, hbound⟩
      split at ha
      · exact ha
      · exact absurd ha (Nat.not_lt_zero a)
    depth := by simpa [DepthLegal] using h.depth }

/-! ACC: a value placed below the ones before it -/

/-- A value of k bits, moved up by e, stays inside ACC. -/
theorem toNat_placed {w k e f : Nat} {v : BitVec w} (hv : v.toNat < 2 ^ k) (hke : k + e ≤ f) (hf : f ≤ 40) :
    (v.setWidth 40 <<< e).toNat = v.toNat * 2 ^ e ∧ v.toNat * 2 ^ e < 2 ^ f := by
  have hlt : v.toNat * 2 ^ e < 2 ^ f := calc
    v.toNat * 2 ^ e < 2 ^ k * 2 ^ e := Nat.mul_lt_mul_of_pos_right hv (Nat.two_pow_pos e)
    _ = 2 ^ (k + e) := (Nat.pow_add 2 k e).symm
    _ ≤ 2 ^ f := Nat.pow_le_pow_right (by decide) hke
  have hword : v.toNat * 2 ^ e < 2 ^ 40 := hlt.trans_le (Nat.pow_le_pow_right (by decide) hf)
  have hsmall : v.toNat < 2 ^ 40 := (Nat.le_mul_of_pos_right _ (Nat.two_pow_pos e)).trans_lt hword
  refine ⟨?_, hlt⟩
  rw [BitVec.toNat_shiftLeft, BitVec.toNat_setWidth, Nat.mod_eq_of_lt hsmall, Nat.shiftLeft_eq, Nat.mod_eq_of_lt hword]

/-- Placing a value keeps ACC inside the window of f bits, and keeps the bits below the value clear. -/
theorem or_placed_bounds {w k e f g : Nat} {v : BitVec w} {acc : Accum} (hv : v.toNat < 2 ^ k) (hke : k + e ≤ f)
    (hf : f ≤ 40) (hacc : acc.toNat < 2 ^ f) (heg : e ≤ g) (hlow : acc.toNat % 2 ^ g = 0) :
    (acc ||| v.setWidth 40 <<< e).toNat < 2 ^ f ∧ (acc ||| v.setWidth 40 <<< e).toNat % 2 ^ e = 0 := by
  obtain ⟨hplaced, hlt⟩ := toNat_placed hv hke hf
  have hlow' : acc.toNat % 2 ^ e = 0 :=
    Nat.mod_eq_zero_of_dvd ((Nat.pow_dvd_pow 2 heg).trans (Nat.dvd_of_mod_eq_zero hlow))
  rw [BitVec.toNat_or, hplaced]
  exact ⟨Nat.or_lt_two_pow hacc hlt, by rw [Nat.or_mod_two_pow, hlow', Nat.mul_mod_left, Nat.or_self]⟩

/-! PUTB -/

/-- The invariants of an encode message in progress, assembled. -/
theorem inv_of_encoding {s : State} (hregs : RegistersSound s) (active : s.msgState = .active)
    (encoding : dirOf s.config = .encode) (hacc : AccInWindow s)
    (hcnt : s.cnt.toNat < chunkBytes (schemeOf s.config))
    (hlow : s.acc.toNat % 2 ^ (windowBits (schemeOf s.config) - 8 * s.cnt.toNat) = 0)
    (hbits : s.bits = 0#6) (hpad : s.padSeen = false) : s.Inv where
  accInWindow := hacc
  windowClearAtRest := fun hrest => absurd active hrest
  encodeChunk := fun _ _ => ⟨hcnt, hlow, hbits, hpad⟩
  decodeWindow := fun _ decoding => by simp [encoding] at decoding
  outcome := hregs.outcome
  count := hregs.count
  reason := hregs.reason
  configLegal := hregs.configLegal
  bitsInWindow := by simp [hbits]
  obuf := hregs.obuf
  depth := hregs.depth

theorem completeChunk_inv {s : State} (hregs : RegistersSound s) (active : s.msgState = .active)
    (encoding : dirOf s.config = .encode) (hacc : AccInWindow s)
    (hcnt : s.cnt.toNat ≤ chunkBytes (schemeOf s.config))
    (hlow : s.acc.toNat % 2 ^ (windowBits (schemeOf s.config) - 8 * s.cnt.toNat) = 0)
    (hbits : s.bits = 0#6) (hpad : s.padSeen = false) : (completeChunk s).Inv := by
  obtain ⟨hnotFull, h⟩ | ⟨-, h⟩ := completeChunk_cases s <;> rw [h]
  · exact inv_of_encoding hregs active encoding hacc (Nat.lt_of_le_of_ne hcnt hnotFull) hlow hbits hpad
  · exact inv_of_windowClear ((hregs.emitAll _ active).congr rfl)
      ⟨rfl, rfl, by simpa [emitChunk], by simpa [emitChunk]⟩

theorem toNat_succ_cnt {c : BitVec 4} (h : c.toNat < 8) : (c + 1#4).toNat = c.toNat + 1 := by
  rw [BitVec.toNat_add]
  exact Nat.mod_eq_of_lt (by simp; omega)

theorem putByte_inv (data : Byte) {s : State} (h : s.Inv) (hin : inMessage .encode s = true) :
    (completeChunk (insertByte data (countInput s))).Inv := by
  obtain ⟨active, encoding⟩ := (inMessage_iff .encode s).mp hin
  obtain ⟨hcnt, hlow, hbits, hpad⟩ := h.encodeChunk active encoding
  have hwidth := (window_is_chunk (schemeOf s.config)).1
  have hfive := chunkBytes_le_five (schemeOf s.config)
  have hcnt' : (s.cnt + 1#4).toNat = s.cnt.toNat + 1 := toNat_succ_cnt (by omega)
  obtain ⟨hacc', hlow'⟩ := or_placed_bounds (e := windowBits (schemeOf s.config) - 8 * (s.cnt.toNat + 1)) data.isLt
    (by omega) (windowBits_le (schemeOf s.config)) h.accInWindow (by omega) hlow
  refine completeChunk_inv ((registersSound_of_inv h).congr rfl) active encoding hacc' ?_ ?_ hbits hpad
  · simpa [hcnt'] using hcnt
  · rwa [insertByte_cnt, countInput_cnt, hcnt']

/-! PUTC -/

/-- The invariants of a decode message in progress, assembled. -/
theorem inv_of_decoding {s : State} (hregs : RegistersSound s) (active : s.msgState = .active)
    (decoding : dirOf s.config = .decode) (hacc : AccInWindow s) (hwindow : DecodeWindowSound s)
    (hbits : s.bits.toNat ≤ windowBits (schemeOf s.config)) : s.Inv where
  accInWindow := hacc
  windowClearAtRest := fun hrest => absurd active hrest
  encodeChunk := fun _ encoding => by simp [decoding] at encoding
  decodeWindow := hwindow
  outcome := hregs.outcome
  count := hregs.count
  reason := hregs.reason
  configLegal := hregs.configLegal
  bitsInWindow := hbits
  obuf := hregs.obuf
  depth := hregs.depth

/-- A decode message whose window holds `d` data positions, full windows among them. -/
structure WindowFilled (s : State) (d : Nat) : Prop where
  registers : RegistersSound s
  active : s.msgState = .active
  decoding : dirOf s.config = .decode
  accInWindow : AccInWindow s
  inWindow : s.cnt.toNat ≤ windowChars (schemeOf s.config)
  data : d ≤ s.cnt.toNat
  bits : s.bits.toNat = groupBits (schemeOf s.config) * d
  pad : s.padSeen = true ↔ d < s.cnt.toNat
  low : s.acc.toNat % 2 ^ (windowBits (schemeOf s.config) - s.bits.toNat) = 0

theorem WindowFilled.bits_le {s : State} {d : Nat} (h : WindowFilled s d) :
    s.bits.toNat ≤ windowBits (schemeOf s.config) := by
  rw [h.bits, ← (window_is_chunk (schemeOf s.config)).2]
  exact Nat.mul_le_mul_left _ (h.data.trans h.inWindow)

/-- Latching a format error keeps the invariants: nothing more is said of the window. -/
theorem raise_inv {e : ErrReason} {s : State} (hregs : RegistersSound s) (active : s.msgState = .active)
    (decoding : dirOf s.config = .decode) (hacc : AccInWindow s)
    (hbits : s.bits.toNat ≤ windowBits (schemeOf s.config)) (he : errCode e ≠ 0#3) (he2 : (errCode e).toNat ≤ 2) :
    (raise e s).Inv := by
  have hlatched : (raise e s).errReason ≠ 0#3 := by
    unfold raise
    split
    · exact he
    · assumption
  refine inv_of_decoding (hregs.raise active decoding he2) ?_ ?_ ?_ (fun _ _ h => absurd h hlatched) ?_
  · simpa using active
  · simpa using decoding
  · simpa [AccInWindow] using hacc
  · simpa using hbits

theorem windowClose_inv {s : State} {d : Nat} (h : WindowFilled s d) : (windowClose s).Inv := by
  obtain ⟨-, hclose⟩ | ⟨n, -, hclose⟩ := windowClose_cases s <;> rw [hclose]
  · exact raise_inv h.registers h.active h.decoding h.accInWindow h.bits_le (by decide) (by decide)
  · exact inv_of_windowClear ((h.registers.emitAll _ h.active).congr rfl) ⟨rfl, rfl, rfl, rfl⟩

/-- Once the position is counted, the window is open with fewer than W positions, or it is closed. -/
theorem advanceWindow_inv {s : State} {d : Nat} (h : WindowFilled { s with cnt := s.cnt + 1#4 } d) :
    (advanceWindow s).Inv := by
  obtain ⟨hopen, hadv⟩ | ⟨-, hadv⟩ := advanceWindow_cases s <;> rw [hadv]
  · exact inv_of_decoding h.registers h.active h.decoding h.accInWindow
      (fun _ _ _ => ⟨Nat.lt_of_le_of_ne h.inWindow hopen, d, h.data, h.bits, h.pad, h.low⟩) h.bits_le
  · exact windowClose_inv h

theorem dataFrom_eq_data {c lo first k : Nat} {v : BitVec 6} (h : dataFrom c lo first = .data v)
    (hk : first + (c - lo) < 2 ^ k) : v.toNat < 2 ^ k := by
  obtain rfl : BitVec.ofNat 6 (first + (c - lo)) = v := CharClass.data.inj h
  exact (BitVec.toNat_ofNat _ 6 ▸ Nat.mod_le _ _).trans_lt hk

/-- A data character's value has k bits (20_memory.md R58). -/
theorem decLUT_data_lt {sch : Scheme} {ch : Byte} {v : BitVec 6} (h : decLUT sch ch = .data v) :
    v.toNat < 2 ^ groupBits sch := by
  cases sch with
  | b64 | b64url => exact v.isLt
  | hex | b32 =>
    simp only [decLUT] at h
    split_ifs at h
    all_goals exact dataFrom_eq_data h (by simp only [groupBits]; omega)

/-- The window between two characters of a message with no latched error. -/
theorem windowFilled_of_inv {s : State} (h : s.Inv) (active : s.msgState = .active)
    (decoding : dirOf s.config = .decode) (hreason : s.errReason = 0#3) :
    ∃ d, WindowFilled s d ∧ s.cnt.toNat < windowChars (schemeOf s.config) := by
  obtain ⟨hopen, d, hdata, hbits, hpad, hlow⟩ := h.decodeWindow active decoding hreason
  exact ⟨d, ⟨registersSound_of_inv h, active, decoding, h.accInWindow, hopen.le, hdata, hbits, hpad, hlow⟩, hopen⟩

theorem toNat_succ_cnt_of_open {s : State} (hopen : s.cnt.toNat < windowChars (schemeOf s.config)) :
    (s.cnt + 1#4).toNat = s.cnt.toNat + 1 :=
  toNat_succ_cnt (hopen.trans_le (windowChars_le_eight _))

/-- A pad takes a position and no data (42_decode.md R173). -/
theorem WindowFilled.padPosition {s : State} {d : Nat} (h : WindowFilled s d)
    (hopen : s.cnt.toNat < windowChars (schemeOf s.config)) :
    WindowFilled { s with padSeen := true, cnt := s.cnt + 1#4 } d where
  registers := h.registers.congr rfl
  active := h.active
  decoding := h.decoding
  accInWindow := h.accInWindow
  inWindow := by simpa [toNat_succ_cnt_of_open hopen] using hopen
  data := by simpa [toNat_succ_cnt_of_open hopen] using Nat.le_succ_of_le h.data
  bits := h.bits
  pad := by simpa [toNat_succ_cnt_of_open hopen] using Nat.lt_succ_of_le h.data
  low := h.low

/-- With no pad before it, a data character takes the next position and its k bits (42_decode.md R174). -/
theorem WindowFilled.dataPosition {s : State} {d : Nat} {v : BitVec 6} (h : WindowFilled s d)
    (hopen : s.cnt.toNat < windowChars (schemeOf s.config)) (hseen : s.padSeen = false)
    (hv : v.toNat < 2 ^ groupBits (schemeOf s.config)) :
    WindowFilled { insertGroup v s with cnt := s.cnt + 1#4 } (d + 1) := by
  have hcnt := toNat_succ_cnt_of_open hopen
  have hd : d = s.cnt.toNat := Nat.le_antisymm h.data (Nat.not_lt.mp fun hlt => by simp [h.pad.mpr hlt] at hseen)
  have hwidth := windowBits_le (schemeOf s.config)
  have hfits : groupBits (schemeOf s.config) * (d + 1) ≤ windowBits (schemeOf s.config) := by
    rw [← (window_is_chunk (schemeOf s.config)).2, hd]
    exact Nat.mul_le_mul_left _ hopen
  have hgroups := Nat.mul_add_one (groupBits (schemeOf s.config)) d
  have hbits : (s.bits + BitVec.ofNat 6 (groupBits (schemeOf s.config))).toNat
      = groupBits (schemeOf s.config) * (d + 1) := by
    rw [BitVec.toNat_add, BitVec.toNat_ofNat, h.bits]
    omega
  have hlow := h.low
  rw [h.bits] at hlow
  obtain ⟨hacc', hlow'⟩ := or_placed_bounds
    (e := windowBits (schemeOf s.config) - groupBits (schemeOf s.config) * (d + 1))
    hv (by omega) hwidth h.accInWindow (by omega) hlow
  subst hd
  exact {
    registers := h.registers.congr rfl
    active := h.active
    decoding := h.decoding
    accInWindow := hacc'
    inWindow := by simpa [hcnt] using hopen
    data := hcnt.ge
    bits := hbits
    pad := by simp [hcnt, hseen]
    low := by rwa [insertGroup_bits, hbits] }

theorem consumeChar_inv (data : Byte) {s : State} (h : s.Inv) (active : s.msgState = .active)
    (decoding : dirOf s.config = .decode) (hreason : s.errReason = 0#3) : (consumeChar data s).Inv := by
  have herror (e : ErrReason) (he : errCode e ≠ 0#3) (he2 : (errCode e).toNat ≤ 2) : (raise e s).Inv :=
    raise_inv (registersSound_of_inv h) active decoding h.accInWindow h.bitsInWindow he he2
  obtain ⟨d, hfilled, hopen⟩ := windowFilled_of_inv h active decoding hreason
  obtain ⟨-, hc⟩ | ⟨v, -, -, hc⟩ | ⟨v, hv, hseen, hc⟩ | ⟨-, hc⟩ := consumeChar_cases data s <;> rw [hc]
  · exact advanceWindow_inv (hfilled.padPosition hopen)
  · exact herror _ (by decide) (by decide)
  · exact advanceWindow_inv (hfilled.dataPosition hopen hseen (decLUT_data_lt hv))
  · exact herror _ (by decide) (by decide)

theorem acceptChar_inv (data : Byte) {s : State} (h : s.Inv) (hin : inMessage .decode s = true) :
    (acceptChar data s).Inv := by
  obtain ⟨active, decoding⟩ := (inMessage_iff .decode s).mp hin
  have hcounted : (countInput s).Inv := inv_congr h rfl
  unfold acceptChar
  split
  · next hreason => exact consumeChar_inv data hcounted active decoding hreason
  · exact hcounted

/-! END -/

theorem windowClose_registers {s : State} (h : RegistersSound s) (active : s.msgState = .active)
    (decoding : dirOf s.config = .decode) : RegistersSound (windowClose s) := by
  obtain ⟨-, hclose⟩ | ⟨n, -, hclose⟩ := windowClose_cases s <;> rw [hclose]
  · exact h.raise active decoding (by decide)
  · exact (h.emitAll _ active).congr rfl

theorem flushWindow_registers {s : State} (h : RegistersSound s) (active : s.msgState = .active)
    (decoding : dirOf s.config = .decode) : RegistersSound (flushWindow s) := by
  obtain hf | hf | hf := flushWindow_cases s <;> rw [hf]
  · exact h
  · exact windowClose_registers h active decoding
  · exact h.raise active decoding (by decide)

theorem flushMessage_registers {s : State} (h : RegistersSound s) (active : s.msgState = .active) :
    RegistersSound (flushMessage s) := by
  cases hdir : dirOf s.config with
  | encode =>
    simp only [flushMessage, hdir, encodeFlush]
    split
    · exact (h.emitAll _ active).congr rfl
    · exact h.congr rfl
  | decode =>
    simp only [flushMessage, hdir, decodeFlush]
    split
    · exact (flushWindow_registers h active hdir).congr rfl
    · exact h.congr rfl

theorem endMessage_inv {s : State} (h : s.Inv) (active : s.msgState = .active) :
    (closeMessage (flushMessage s)).Inv :=
  inv_of_windowClear
    ((flushMessage_registers (registersSound_of_inv h) active).closeMessage ((flushMessage_frame s).msgState.trans active))
    (closeMessage_windowClear _)

/-! Every command and every step -/

theorem CommandResult.inv {s t : State} {i : Instr} (hresult : CommandResult s i t) (h : s.Inv) : t.Inv := by
  cases hresult with
  | nop | rdreg | rdout | naked => exact inv_congr h rfl
  | cfg legal => exact inv_congr (beginMessage_inv legal h) rfl
  | putb encoding => exact inv_congr (putByte_inv _ h encoding) rfl
  | putc decoding => exact inv_congr (acceptChar_inv _ h decoding) rfl
  | endMsg active => exact inv_congr (endMessage_inv h active) rfl
  | srst => exact inv_congr (softReset_inv h) rfl

/-- Settles O43: a clear window and empty registers meet every invariant. -/
theorem invariantsHoldAtReset : Obligations.InvariantsHoldAtReset :=
  ⟨fun _ hlow hhigh => resetWith_inv ⟨hlow, hhigh⟩, resetWith_inv (by decide)⟩

/-- Settles O44: each command keeps the invariants, and the host's position, a NAK and the response stand in none. -/
theorem stepKeepsInvariants : Obligations.StepKeepsInvariants := by
  intro s t h hstep
  have hmoved : (advanceHost s).Inv := inv_congr h rfl
  cases step_eq_next_iff.mp hstep with
  | noWord => exact h
  | reserved => exact inv_congr hmoved rfl
  | command _ _ result => exact result.inv hmoved

end Sys2Proof.Laws
end

section
/-! PROOFS. Two runs side by side: states that differ in OBUF and IN_COUNT only, each in a way that no operation tells
apart, stay so (10_state.md R30, R37). -/

namespace Sys2Proof.Laws

open Sys2Proof.Machine

/-- Which two OBUFs (at an OUT_COUNT) and which two IN_COUNTs count as alike, closed under what the commands do to them:
Emit's write, a new message, reset and one input more. The parity is what END reads of IN_COUNT (40_control.md R115). -/
structure Likeness where
  sameOutput : Nat → Memory → Memory → Prop
  sameInput : BitVec 31 → BitVec 31 → Prop
  write : ∀ {n m m'} (x : Byte), sameOutput n m m' → sameOutput (n + 1) (Memory.write m n x) (Memory.write m' n x)
  restart : ∀ {n m m'}, sameOutput n m m' → sameOutput 0 m m'
  emptied : sameOutput 0 [] []
  counted : ∀ {a b}, sameInput a b → sameInput (a + 1#31) (b + 1#31)
  parity : ∀ {a b}, sameInput a b → b.getLsbD 0 = a.getLsbD 0
  zeroed : sameInput 0#31 0#31

/-- Two states that are alike in OBUF and IN_COUNT, and equal in everything else. -/
inductive Alike (L : Likeness) (s : State) : State → Prop
  | intro {m n} (output : L.sameOutput s.outCount.toNat s.obuf m) (input : L.sameInput s.inCount n) :
      Alike L s { s with obuf := m, inCount := n }

section operations

variable {L : Likeness} {s t : State}

theorem Alike.clearWindow : Alike L s t → Alike L (clearWindow s) (clearWindow t)
  | .intro output input => .intro output input

theorem Alike.clearChunk : Alike L s t → Alike L (clearChunk s) (clearChunk t)
  | .intro output input => .intro output input

theorem Alike.countInput : Alike L s t → Alike L (countInput s) (countInput t)
  | .intro output input => .intro output (L.counted input)

theorem Alike.insertByte (data : Byte) : Alike L s t → Alike L (insertByte data s) (insertByte data t)
  | .intro output input => .intro output input

theorem Alike.insertGroup (v : BitVec 6) : Alike L s t → Alike L (insertGroup v s) (insertGroup v t)
  | .intro output input => .intro output input

theorem Alike.respond (v : Payload) : Alike L s t → Alike L (respond v s) (respond v t)
  | .intro output input => .intro output input

theorem Alike.respondStatus : Alike L s t → Alike L (respondStatus s) (respondStatus t)
  | .intro output input => .intro output input

theorem Alike.nak : Alike L s t → Alike L (nak s) (nak t)
  | .intro output input => .intro output input

theorem Alike.advanceHost : Alike L s t → Alike L (advanceHost s) (advanceHost t)
  | .intro output input => .intro output input

theorem Alike.beginMessage (config : BitVec 5) : Alike L s t → Alike L (beginMessage config s) (beginMessage config t)
  | .intro output _ => .intro (L.restart output) L.zeroed

theorem Alike.softReset : Alike L s t → Alike L (softReset s) (softReset t)
  | .intro _ _ => .intro L.emptied L.zeroed

theorem Alike.raise (e : ErrReason) (h : Alike L s t) : Alike L (raise e s) (raise e t) := by
  obtain ⟨output, input⟩ := h
  by_cases unlatched : s.errReason = 0#3
  · simp only [Machine.raise, if_pos unlatched]
    exact .intro output input
  · simp only [Machine.raise, if_neg unlatched]
    exact .intro output input

theorem Alike.emit (x : Byte) (h : Alike L s t) : Alike L (emit x s) (emit x t) := by
  obtain ⟨output, input⟩ := h
  by_cases room : s.outCount < s.depth
  · have hcount : (s.outCount + 1#13).toNat = s.outCount.toNat + 1 := by
      simpa [Machine.emit, room] using emit_room_outCount x ((not_full_iff s).mp room)
    simp only [Machine.emit, if_pos room]
    exact .intro (hcount ▸ L.write x output) input
  · simp only [Machine.emit, if_neg room]
    exact .intro output input

theorem Alike.emitAll (xs : List Byte) (h : Alike L s t) : Alike L (emitAll xs s) (emitAll xs t) := by
  induction xs generalizing s t with
  | nil => exact h
  | cons x xs ih => exact ih (h.emit x)

theorem Alike.windowClose (h : Alike L s t) : Alike L (windowClose s) (windowClose t) := by
  obtain ⟨output, input⟩ := h
  unfold Machine.windowClose
  dsimp only
  split
  · exact (Alike.intro output input).raise _
  · exact ((Alike.intro output input).emitAll _).clearWindow

theorem Alike.advanceWindow (h : Alike L s t) : Alike L (advanceWindow s) (advanceWindow t) := by
  obtain ⟨output, input⟩ := h
  have hnext : Alike L { s with cnt := s.cnt + 1#4 } _ := .intro output input
  unfold Machine.advanceWindow
  dsimp only
  split
  · exact hnext.windowClose
  · exact hnext

theorem Alike.consumeChar (data : Byte) (h : Alike L s t) : Alike L (consumeChar data s) (consumeChar data t) := by
  obtain ⟨output, input⟩ := h
  have hsame := Alike.intro output input
  have hpad : Alike L { s with padSeen := true } _ := .intro output input
  unfold Machine.consumeChar
  dsimp only
  split
  · exact hpad.advanceWindow
  · split
    · exact hsame.raise _
    · exact (hsame.insertGroup _).advanceWindow
  · exact hsame.raise _

theorem Alike.acceptChar (data : Byte) (h : Alike L s t) : Alike L (acceptChar data s) (acceptChar data t) := by
  obtain ⟨output, input⟩ := h
  have hcounted := (Alike.intro output input).countInput
  unfold Machine.acceptChar
  dsimp only
  split
  · exact hcounted.consumeChar data
  · exact hcounted

theorem Alike.completeChunk (h : Alike L s t) : Alike L (completeChunk s) (completeChunk t) := by
  obtain ⟨output, input⟩ := h
  have hsame := Alike.intro output input
  unfold Machine.completeChunk
  dsimp only
  split
  · exact (hsame.emitAll _).clearChunk
  · exact hsame

theorem Alike.encodeFlush (h : Alike L s t) : Alike L (encodeFlush s) (encodeFlush t) := by
  obtain ⟨output, input⟩ := h
  have hsame := Alike.intro output input
  unfold Machine.encodeFlush
  dsimp only
  split
  · exact (hsame.emitAll _).clearChunk
  · exact hsame.clearChunk

theorem Alike.flushWindow (h : Alike L s t) : Alike L (flushWindow s) (flushWindow t) := by
  obtain ⟨output, input⟩ := h
  have hsame := Alike.intro output input
  unfold Machine.flushWindow
  dsimp only
  split
  · exact hsame
  all_goals
    split
    · exact hsame.windowClose
    · exact hsame.raise _

theorem Alike.decodeFlush (h : Alike L s t) : Alike L (decodeFlush s) (decodeFlush t) := by
  obtain ⟨output, input⟩ := h
  have hsame := Alike.intro output input
  unfold Machine.decodeFlush
  dsimp only
  split
  · exact hsame.flushWindow.clearWindow
  · exact hsame.clearWindow

theorem Alike.flushMessage (h : Alike L s t) : Alike L (flushMessage s) (flushMessage t) := by
  obtain ⟨output, input⟩ := h
  have hsame := Alike.intro output input
  unfold Machine.flushMessage
  dsimp only
  split
  · exact hsame.encodeFlush
  · exact hsame.decodeFlush

theorem Alike.finalReason (h : Alike L s t) : finalReason t = finalReason s := by
  obtain ⟨output, input⟩ := h
  unfold Machine.finalReason
  dsimp only
  rw [L.parity input]

theorem Alike.commit (r : BitVec 3) (h : Alike L s t) : Alike L (commit r s) (commit r t) := by
  obtain ⟨output, input⟩ := h
  unfold Machine.commit
  split
  · exact .intro output input
  · exact .intro (L.restart output) input

theorem Alike.closeMessage (h : Alike L s t) : Alike L (closeMessage s) (closeMessage t) := by
  unfold Machine.closeMessage
  rw [h.finalReason]
  have hreason : Alike L { s with errReason := Machine.finalReason s }
      { t with errReason := Machine.finalReason s } := by
    obtain ⟨output, input⟩ := h
    exact .intro output input
  exact (hreason.commit _).clearWindow

theorem Alike.response (h : Alike L s t) : t.response = s.response := by
  obtain ⟨-, -⟩ := h
  rfl

theorem Alike.nextCommand (h : Alike L s t) : nextCommand t = nextCommand s := by
  obtain ⟨-, -⟩ := h
  rfl

/-- No NAK cause reads OBUF or IN_COUNT (60_exceptions.md R239). -/
theorem Alike.nakCause {i : Instr} (h : Alike L s t) (cause : NakCause s i) : NakCause t i := by
  obtain ⟨-, -⟩ := h
  exact cause

/-- A command that reads neither a difference of OBUF nor one of IN_COUNT keeps two states alike, its response
included. -/
theorem CommandResult.alike {i : Instr} {s' : State} (hresult : CommandResult s i s') (h : Alike L s t)
    (hreg : ∀ reg, i = .rdreg reg → readReg reg t = readReg reg s)
    (hout : ∀ addr, i = .rdout addr → entryReadable addr s = true →
      obufEntry t.obuf addr.toNat = obufEntry s.obuf addr.toNat) :
    ∃ t', CommandResult t i t' ∧ Alike L s' t' := by
  cases hresult with
  | nop => exact ⟨_, .nop, h.respondStatus⟩
  | cfg legal => exact ⟨_, .cfg legal, (h.beginMessage _).respondStatus⟩
  | putb encoding =>
    have ht : inMessage .encode t = true := by obtain ⟨-, -⟩ := h; exact encoding
    exact ⟨_, .putb ht, (h.countInput.insertByte _).completeChunk.respondStatus⟩
  | putc decoding =>
    have ht : inMessage .decode t = true := by obtain ⟨-, -⟩ := h; exact decoding
    exact ⟨_, .putc ht, (h.acceptChar _).respondStatus⟩
  | endMsg active =>
    have ht : t.msgState = .active := by obtain ⟨-, -⟩ := h; exact active
    exact ⟨_, .endMsg ht, h.flushMessage.closeMessage.respondStatus⟩
  | rdreg value => exact ⟨_, .rdreg ((hreg _ rfl).trans value), h.respond _⟩
  | @rdout addr readable =>
    have ht : entryReadable addr t = true := by obtain ⟨-, -⟩ := h; exact readable
    rw [← hout addr rfl readable]
    exact ⟨_, .rdout ht, h.respond _⟩
  | srst => exact ⟨_, .srst, h.softReset.respond _⟩
  | naked cause => exact ⟨_, .naked (h.nakCause cause), h.nak⟩

end operations

/-! OBUF entries at or above OUT_COUNT (R37) -/

/-- Equal inputs, and equal OBUF entries from address `lo` up to OUT_COUNT. -/
def writtenFrom (lo : Nat) : Likeness where
  sameOutput n m m' := ∀ a, lo ≤ a → a < n → Memory.read m' a = Memory.read m a
  sameInput a b := b = a
  write {n m m'} x h a hlo ha := by
    rw [read_write, read_write]
    split
    · rfl
    · exact h a hlo (by omega)
  restart _ a _ ha := absurd ha (Nat.not_lt_zero a)
  emptied _ _ _ := rfl
  counted h := by rw [h]
  parity h := by rw [h]
  zeroed := rfl

theorem agreeBelowCount_iff {s t : State} : AgreeBelowCount s t ↔ Alike (writtenFrom 0) s t := by
  constructor
  · rintro ⟨hfields, hread⟩
    rw [hfields]
    exact .intro (L := writtenFrom 0) (n := s.inCount) (fun a _ ha => hread a ha) rfl
  · rintro ⟨output, rfl⟩
    exact ⟨rfl, fun a ha => output a (Nat.zero_le a) ha⟩

theorem readReg_of_alike_writtenFrom {lo : Nat} {s t : State} (h : Alike (writtenFrom lo) s t) (reg : BitVec 4) :
    readReg reg t = readReg reg s := by
  obtain ⟨-, rfl⟩ := h
  rfl

theorem obufEntry_of_alike_writtenFrom {s t : State} (h : Alike (writtenFrom 0) s t) {a : Nat}
    (ha : a < s.outCount.toNat) : obufEntry t.obuf a = obufEntry s.obuf a := by
  obtain ⟨output, -⟩ := h
  rw [obufEntry, output a (Nat.zero_le a) ha]
  rfl

/-- RDOUT reads below OUT_COUNT only, so every command keeps the agreement. -/
theorem CommandResult.alike_writtenFrom_zero {s t s' : State} {i : Instr} (hresult : CommandResult s i s')
    (h : Alike (writtenFrom 0) s t) : ∃ t', CommandResult t i t' ∧ Alike (writtenFrom 0) s' t' :=
  hresult.alike h (fun reg _ => readReg_of_alike_writtenFrom h reg) fun addr _ readable =>
    obufEntry_of_alike_writtenFrom h ((entryReadable_iff addr s).mp readable).2

theorem StepResult.alike_writtenFrom_zero {s t s' : State} (hresult : StepResult s s')
    (h : Alike (writtenFrom 0) s t) : ∃ t', StepResult t t' ∧ Alike (writtenFrom 0) s' t' := by
  cases hresult with
  | noWord word => exact ⟨t, .noWord (h.nextCommand.trans word), h⟩
  | reserved word decoded => exact ⟨_, .reserved (h.nextCommand.trans word) decoded, h.advanceHost.nak⟩
  | command word decoded result =>
    obtain ⟨t', ht', halike⟩ := result.alike_writtenFrom_zero h.advanceHost
    exact ⟨t', .command (h.nextCommand.trans word) decoded ht', halike⟩

/-- Outside DONE_OK no entry is read: two states whose OBUFs differ in any way are alike from OUT_COUNT on. -/
theorem response_of_not_doneOk {s : State} (hstate : s.msgState ≠ .doneOk) (m : Memory) (i : Instr) :
    ∃ t u, exec i s = .next t ∧ exec i { s with obuf := m } = .next u ∧ u.response = t.response := by
  have h : Alike (writtenFrom s.outCount.toNat) s { s with obuf := m } :=
    .intro (n := s.inCount) (fun a hlo ha => absurd ha (Nat.not_lt.mpr hlo)) rfl
  obtain ⟨t, ht⟩ := exists_commandResult s i
  obtain ⟨u, hu, halike⟩ := ht.alike h (fun reg _ => readReg_of_alike_writtenFrom h reg) fun addr _ readable =>
    absurd ((entryReadable_iff addr s).mp readable).1 hstate
  exact ⟨t, u, ht.exec_eq, hu.exec_eq, halike.response⟩

/-- Settles O45: agreement below OUT_COUNT is a relation that every step keeps, and outside DONE_OK no command reads
OBUF. -/
theorem entriesAboveCountAreUnobservable : Obligations.EntriesAboveCountAreUnobservable := by
  refine ⟨fun s t s' h hstep => ?_, fun _ m i hstate => response_of_not_doneOk hstate m i⟩
  simp only [agreeBelowCount_iff, step_eq_next_iff] at h hstep ⊢
  exact hstep.alike_writtenFrom_zero h

/-! IN_COUNT's parity (R30) -/

/-- One input more changes the parity. -/
theorem parity_succ (a : BitVec 31) : (a + 1#31).getLsbD 0 = !a.getLsbD 0 := by
  simp [BitVec.getElem_add]

/-- Equal OBUFs, and IN_COUNTs of one parity. -/
def sameParity : Likeness where
  sameOutput _ m m' := m' = m
  sameInput a b := b.getLsbD 0 = a.getLsbD 0
  write x h := by rw [h]
  restart h := h
  emptied := rfl
  counted h := by rw [parity_succ, parity_succ, h]
  parity h := h
  zeroed := rfl

/-- IN_COUNT is read by RDREG 5 only. -/
theorem readReg_of_ne_inCount {reg : BitVec 4} (hreg : reg ≠ 5#4) (s : State) (n : BitVec 31) :
    readReg reg { s with inCount := n } = readReg reg s := by
  have hne : reg.toNat ≠ 5 := fun h => hreg (BitVec.eq_of_toNat_eq h)
  unfold readReg
  split
  case h_6 h => exact absurd h hne
  all_goals rfl

theorem countInput_inCount_toNat (s : State) : (countInput s).inCount.toNat = (s.inCount.toNat + 1) % 2 ^ 31 :=
  BitVec.toNat_add s.inCount 1#31

/-- Settles O13: PUTB and PUTC count, and two states that differ in IN_COUNT only, with one parity, stay so. -/
theorem inCountCountsAcceptedInput : Obligations.InCountCountsAcceptedInput := by
  refine ⟨fun s i => ?_, fun d => rfl, fun s t i n hparity hi hrun => ?_⟩
  · obtain ⟨t, ht⟩ := exists_commandResult s i
    refine ⟨t, ht.exec_eq, ?_⟩
    cases ht with
    | nop | rdreg | rdout | srst => rfl
    | cfg legal => exact (if_pos legal).symm
    | @putb data encoding =>
      rw [respondStatus_inCount, (putByte_frame data s).inCount, countInput_inCount_toNat]
      exact (if_pos ((inMessage_iff .encode s).mp encoding)).symm
    | @putc data decoding =>
      rw [respondStatus_inCount, (acceptChar_frame data s).inCount, countInput_inCount_toNat]
      exact (if_pos ((inMessage_iff .decode s).mp decoding)).symm
    | endMsg => simp [(flushMessage_frame s).inCount]
    | naked cause =>
      cases i with
      | cfg sch dir c p => simp [(nakCause_cfg_iff s sch dir c p).mp cause]
      | putb data => exact (if_neg fun h => (nakCause_putb_iff s data).mp cause ((inMessage_iff _ s).mpr h)).symm
      | putc data => exact (if_neg fun h => (nakCause_putc_iff s data).mp cause ((inMessage_iff _ s).mpr h)).symm
      | nop | srst => exact cause.elim
      | endMsg | rdreg | rdout => rfl
  · have h : Alike sameParity s { s with inCount := n } := .intro (m := s.obuf) rfl hparity
    obtain ⟨t', ht', halike⟩ := (exec_eq_next_iff.mp hrun).alike h
      (fun reg hreg => readReg_of_ne_inCount (fun h5 => hi (h5 ▸ hreg)) s n) fun _ _ _ => rfl
    obtain ⟨output, input⟩ := halike
    subst output
    exact ⟨_, input, ht'.exec_eq⟩

end Sys2Proof.Laws
end

section
/-! PROOFS. The reset values, the layout of STATUS, the legal configurations and SCHEME_INFO (10_state.md R24, R25, R27,
R32, R38). -/

namespace Sys2Proof.Laws

open Sys2Proof.Machine

theorem schemeInfo_values : schemeInfo .hex = 0x0214#31 ∧ schemeInfo .b32 = 0x1855#31 ∧ schemeInfo .b64 = 0x1436#31
    ∧ schemeInfo .b64url = 0x1436#31 := by decide

/-- The fields of a word laid out as STATUS[4:0] is (R25). -/
theorem status_layout (ill ovf errl : Bool) (code : BitVec 2) :
    let w := BitVec.ofBool ill ++ BitVec.ofBool ovf ++ BitVec.ofBool errl ++ code
    w.extractLsb' 0 2 = code ∧ w.getLsbD 2 = errl ∧ w.getLsbD 3 = ovf ∧ w.getLsbD 4 = ill := by
  revert ill ovf errl code
  decide

theorem statusOf_errl_iff (s : State) : (statusOf s).getLsbD 2 = true ↔ s.errReason ≠ 0#3 := by
  obtain ⟨-, herrl, -, -⟩ := status_layout s.ill s.ovf (errl s) (stateCode s.msgState)
  rw [statusOf, herrl, errl, bne_iff_ne]

theorem statusOf_errl_of_no_error {s : State} (h : s.errReason = 0#3) : (statusOf s).getLsbD 2 = false :=
  Bool.eq_false_iff.mpr fun herrl => (statusOf_errl_iff s).mp herrl h

/-- The table of R38 says nothing of OBUF, the response and the host's side. -/
theorem hasResetValues_resetWith (d : BitVec 13) (m : Memory) (r : Option Response) (l : List CmdWord) (n : Nat) :
    HasResetValues d { State.resetWith d with obuf := m, response := r, hostProgram := l, hostPos := n } :=
  ⟨rfl, rfl, statusOf_errl_of_no_error rfl, rfl, rfl, rfl, rfl, rfl, rfl, rfl, rfl, rfl, rfl, rfl,
    congrArg some schemeInfo_values.1⟩

/-- Settles O1: SRST's reset differs from power-on in fields that the table leaves out. -/
theorem resetAndSrstGiveResetValues : Obligations.ResetAndSrstGiveResetValues := by
  refine ⟨fun d => hasResetValues_resetWith d [] none [] 0, fun s => ?_⟩
  exact ⟨_, CommandResult.srst.exec_eq, hasResetValues_resetWith s.depth [] _ s.hostProgram s.hostPos, rfl⟩

/-- Settles O14: STATUS is four fields side by side, and R39 bounds ERR_REASON in each state at rest. -/
theorem statusErrlFollowsErrReason : Obligations.StatusErrlFollowsErrReason := by
  refine ⟨fun s => ?_, fun s h => ⟨fun hstate => ?_, fun hstate => ?_⟩⟩
  · obtain ⟨hcode, -, hovf, hill⟩ := status_layout s.ill s.ovf (errl s) (stateCode s.msgState)
    refine ⟨hcode.trans ?_, statusOf_errl_iff s, hovf, hill⟩
    cases s.msgState <;> rfl
  · exact (statusOf_errl_iff s).mpr (h.outcome.1 hstate).2
  · obtain ⟨-, -, -, hidle⟩ := h.reason
    exact statusOf_errl_of_no_error (hstate.elim hidle h.outcome.2)

/-- R24's `legal`, as it is written there. -/
theorem legalConfig_iff (sch : Scheme) (dir : Dir) (c p : Bool) : legalConfig sch dir c p = true ↔
    (sch = .hex → p = false) ∧ (c = true → dir = .encode ∧ (sch = .hex ∨ sch = .b32)) := by
  simp [legalConfig, imp_iff_not_or]

/-- Settles O18: the words of the legal combinations, one by one. -/
theorem legalConfigurationsAreTheSeventeen : Obligations.LegalConfigurationsAreTheSeventeen := by
  refine ⟨fun sch dir c p => ⟨legalConfig_iff sch dir c p, ?_⟩, by decide⟩
  cases sch <;> cases dir <;> cases c <;> cases p <;> decide

/-- Settles O38: RDREG 7 answers the number of the scheme in CONFIG. -/
theorem schemeInfoValues : Obligations.SchemeInfoValues := by
  refine ⟨fun s => ?_, fun d => congrArg some schemeInfo_values.1⟩
  have hread : CommandResult s (.rdreg 7#4) (respond (schemeInfo (schemeOf s.config)) s) := .rdreg rfl
  rw [hread.exec_eq]
  cases schemeOf s.config <;> simp [respond, schemeInfo_values]

end Sys2Proof.Laws
end

section
/-! PROOFS. OBUF: what Emit writes, and that a failed message leaves nothing to read (20_memory.md R51 to R53). -/

namespace Sys2Proof.Laws

open Sys2Proof.Machine

/-- Emit with room writes OBUF and OUT_COUNT and no other field. -/
theorem emit_room_frame (x : Byte) {s : State} (h : s.outCount.toNat < s.depth.toNat) :
    emit x s = { s with obuf := (emit x s).obuf, outCount := (emit x s).outCount } := by
  simp [emit, not_full_iff, h]

/-- Settles O23: with room, Emit is one write at OUT_COUNT; without, it only sets OVF. -/
theorem emitStoresOrDrops : Obligations.EmitStoresOrDrops := by
  refine ⟨fun x s room => ?_, fun x _ full => emit_full x full⟩
  refine ⟨emit_room_frame x room, emit_room_outCount x room, ?_, fun a ha => ?_⟩ <;> rw [emit_room_obuf x room]
  · exact read_write_same _ _ x
  · exact read_write_other _ x ha

/-- RDOUT outside DONE_OK is NAKed (R53, 43_readback.md R212). -/
theorem exec_rdout_of_not_doneOk {s : State} (h : s.msgState ≠ .doneOk) (addr : BitVec 12) :
    exec (.rdout addr) s = .next (rejected s) := exec_of_nakCause (i := .rdout addr) (.inl h)

/-- Commit discards the output of a message that it does not accept (40_control.md R116). -/
theorem closeMessage_outCount_of_doneErr {s : State} (h : (closeMessage s).msgState = .doneErr) :
    (closeMessage s).outCount = 0#13 := by
  have hreason : finalReason s ≠ 0#3 := fun hok => by simp [closeMessage_msgState, hok] at h
  rw [closeMessage_outCount, if_neg hreason]

/-- Settles O21: END reaches DONE_ERR through Commit only, and DONE_ERR is outside DONE_OK. -/
theorem failedMessageIsUnreadable : Obligations.FailedMessageIsUnreadable := by
  refine ⟨fun s addr hstate => exec_rdout_of_not_doneOk hstate addr, fun s t active hend failed => ?_⟩
  refine ⟨?_, exec_rdout_of_not_doneOk (by simp [failed])⟩
  cases exec_eq_next_iff.mp hend with
  | endMsg =>
    rw [respondStatus_msgState] at failed
    rw [respondStatus_outCount, closeMessage_outCount_of_doneErr failed]
  | naked inactive => exact absurd active inactive

end Sys2Proof.Laws
end

section
/-! PROOFS. The lookup ROMs: the alphabets, and the decode maps as their inverses (20_memory.md R56 to R58). -/

namespace Sys2Proof.Laws

open Sys2Proof.Machine

/-- Settles O26: the closed ROM contents, compared entry by entry. -/
theorem alphabetsAreAsListed : Obligations.AlphabetsAreAsListed := by
  refine ⟨?_, ?_, ?_, ?_, ?_, ?_⟩ <;> decide

/-- The decode map reads every character of an alphabet, in either case, as its value: the two ROMs, entry by
entry. -/
theorem decLUT_encLUT (sch : Scheme) (caseBit : Bool) {v : BitVec 6} (hv : v.toNat < 2 ^ groupBits sch) :
    decLUT sch (encLUT sch caseBit v.toNat) = .data v := by
  revert v
  cases sch <;> cases caseBit <;> decide

/-- The characters of the alphabets are ASCII. -/
theorem encLUT_toNat_lt {sch : Scheme} (caseBit : Bool) {v : Nat} (hv : v < 2 ^ groupBits sch) :
    (encLUT sch caseBit v).toNat < 0x80 := by
  cases sch <;> simp only [groupBits, encLUT, BitVec.toNat_ofNat] at hv ⊢ <;> split_ifs <;> omega

/-- In a decode row of fewer than 64 values, a code's value is its distance from the first code of the row. -/
theorem toNat_of_dataFrom_eq {c lo first : Nat} {v : BitVec 6} (h : dataFrom c lo first = .data v)
    (hrow : first + (c - lo) < 64) : v.toNat = first + (c - lo) := by
  obtain rfl : BitVec.ofNat 6 (first + (c - lo)) = v := CharClass.data.inj h
  exact (BitVec.toNat_ofNat _ 6).trans (Nat.mod_eq_of_lt hrow)

/-- A code that the decode map reads as a value is the character of that value, of the lower case alphabet from 0x61
on. B64 and B64URL have one alphabet, whatever the case bit. -/
theorem encLUT_of_decLUT_data {sch : Scheme} {ch : Byte} {v : BitVec 6} (h : decLUT sch ch = .data v) :
    encLUT sch (decide (0x61 ≤ ch.toNat)) v.toNat = ch := by
  cases sch <;> simp only [decLUT, decBase64Common] at h <;> split_ifs at h
  all_goals
    have hv := toNat_of_dataFrom_eq h (by omega)
    apply BitVec.eq_of_toNat_eq
    simp only [encLUT, hv, BitVec.toNat_ofNat, decide_eq_true_eq]
    split_ifs <;> omega

/-- DecLUT inverts EncLUT (R58). -/
theorem decLUT_eq_data_iff (sch : Scheme) (ch : Byte) (v : BitVec 6) :
    decLUT sch ch = .data v ↔ v.toNat < 2 ^ groupBits sch ∧ ∃ caseBit, encLUT sch caseBit v.toNat = ch := by
  refine ⟨fun h => ⟨decLUT_data_lt h, _, encLUT_of_decLUT_data h⟩, ?_⟩
  rintro ⟨hv, caseBit, rfl⟩
  exact decLUT_encLUT sch caseBit hv

/-- Only HEX and B32 have a second alphabet for the case bit to select (R56). -/
theorem exists_encLUT_eq_iff (sch : Scheme) (v : Nat) (ch : Byte) : (∃ caseBit, encLUT sch caseBit v = ch) ↔
    encLUT sch false v = ch ∨ ((sch = .hex ∨ sch = .b32) ∧ encLUT sch true v = ch) := by
  rw [Bool.exists_bool]
  cases sch with
  | hex | b32 => simp
  | b64 | b64url => simp [encLUT]

/-- The pad character is `=` in the schemes that have one (R57). -/
theorem decLUT_eq_pad_iff (sch : Scheme) (ch : Byte) : decLUT sch ch = .pad ↔ sch ≠ .hex ∧ ch = 0x3D#8 := by
  refine ⟨fun h => ?_, fun ⟨hscheme, hcode⟩ => ?_⟩
  · cases sch <;> simp only [decLUT, decBase64Common] at h <;> split_ifs at h <;> cases h
    all_goals exact ⟨nofun, BitVec.eq_of_toNat_eq ‹_›⟩
  · subst hcode
    cases sch with
    | hex => exact absurd rfl hscheme
    | b32 | b64 | b64url => rfl

/-- No code outside ASCII has a value or is the pad. -/
theorem decLUT_of_high (sch : Scheme) {ch : Byte} (high : 0x80 ≤ ch.toNat) : decLUT sch ch = .invalid := by
  cases hclass : decLUT sch ch with
  | invalid => rfl
  | pad =>
    obtain ⟨-, rfl⟩ := (decLUT_eq_pad_iff sch ch).mp hclass
    exact absurd high (by decide)
  | data v =>
    have hlow := encLUT_toNat_lt (decide (0x61 ≤ ch.toNat)) (decLUT_data_lt hclass)
    rw [encLUT_of_decLUT_data hclass] at hlow
    exact absurd high (Nat.not_le.mpr hlow)

/-- Settles O27: each map inverts its alphabets, and what is neither a character of them nor the pad is INVALID. -/
theorem decodeMapsInvertTheAlphabets : Obligations.DecodeMapsInvertTheAlphabets := by
  refine fun sch ch => ⟨fun v => ?_, decLUT_eq_pad_iff sch ch, decLUT_of_high sch⟩
  rw [decLUT_eq_data_iff, exists_encLUT_eq_iff]

end Sys2Proof.Laws
end

section
/-! PROOFS. The formats of R81 as fields of a word, which the encoder writes, the decoder reads and the rows of the
opcode map select (30_encoding.md R81 to R87). -/

namespace Sys2Proof.Laws

open Sys2Proof.Machine

/-! A word is its fields, side by side -/

/-- A concatenation of two fields is the word that has them as its slices. -/
theorem append_eq_iff {k n : Nat} {w : BitVec (k + n)} {hi : BitVec k} {lo : BitVec n} :
    hi ++ lo = w ↔ w.extractLsb' n k = hi ∧ w.extractLsb' 0 n = lo := by
  constructor
  · rintro rfl
    exact ⟨BitVec.extractLsb'_append_eq_left, BitVec.extractLsb'_append_eq_right⟩
  · rintro ⟨rfl, rfl⟩
    rw [BitVec.extractLsb'_append_extractLsb'_eq_extractLsb' (Nat.zero_add n).symm, BitVec.extractLsb'_eq_self]

/-- A slice of a slice is a slice. -/
theorem extractLsb'_extractLsb' {n : Nat} (w : BitVec n) {start len start' len' : Nat} (h : start' + len' ≤ len) :
    (w.extractLsb' start len).extractLsb' start' len' = w.extractLsb' (start + start') len' := by
  ext i hi
  have hin : start' + i < len := by omega
  simp [hin, Nat.add_assoc]

/-- A concatenation of three fields is the word that has them as its slices. -/
theorem append_append_eq_iff {k n m : Nat} {w : BitVec (k + n + m)} {hi : BitVec k} {mid : BitVec n}
    {lo : BitVec m} : hi ++ mid ++ lo = w ↔
      w.extractLsb' (m + n) k = hi ∧ w.extractLsb' m n = mid ∧ w.extractLsb' 0 m = lo := by
  rw [append_eq_iff, eq_comm, append_eq_iff, extractLsb'_extractLsb' w (by omega),
    extractLsb'_extractLsb' w (by omega), and_assoc, Nat.add_zero]

/-- CONFIG's five bits are its four fields (10_state.md R23). -/
theorem configBits_fields (b : BitVec 5) : configBits (schemeOf b) (dirOf b) (caseOf b) (padOf b) = b := by
  revert b
  decide

/-- The word `w` has the fields of the command `i` (R81). -/
def HasFieldsOf (w : CmdWord) : Instr → Prop
  | .nop => w.extractLsb' 12 4 = 0#4 ∧ w.extractLsb' 0 12 = 0#12
  | .cfg scheme dir caseBit padBit => w.extractLsb' 12 4 = 1#4 ∧ w.extractLsb' 5 7 = 0#7
      ∧ w.extractLsb' 0 5 = configBits scheme dir caseBit padBit
  | .putb data => w.extractLsb' 12 4 = 2#4 ∧ w.extractLsb' 8 4 = 0#4 ∧ w.extractLsb' 0 8 = data
  | .putc data => w.extractLsb' 12 4 = 3#4 ∧ w.extractLsb' 8 4 = 0#4 ∧ w.extractLsb' 0 8 = data
  | .endMsg => w.extractLsb' 12 4 = 4#4 ∧ w.extractLsb' 0 12 = 0#12
  | .rdreg reg => w.extractLsb' 12 4 = 5#4 ∧ w.extractLsb' 4 8 = 0#8 ∧ w.extractLsb' 0 4 = reg
  | .rdout addr => w.extractLsb' 12 4 = 6#4 ∧ w.extractLsb' 0 12 = addr
  | .srst => w.extractLsb' 12 4 = 7#4 ∧ w.extractLsb' 0 12 = 0#12

/-- The encoder writes the fields of R81 and no other bit. -/
theorem encode_eq_iff (w : CmdWord) (i : Instr) : encode i = w ↔ HasFieldsOf w i := by
  cases i with
  | nop | endMsg | rdout | srst => exact append_eq_iff (k := 4) (n := 12)
  | cfg => exact append_append_eq_iff (k := 4) (n := 7) (m := 5)
  | putb | putc => exact append_append_eq_iff (k := 4) (n := 4) (m := 8)
  | rdreg => exact append_append_eq_iff (k := 4) (n := 8) (m := 4)

/-! The decoder reads the fields -/

/-- A word of an opcode with a zero field decodes to a command only when that field is 0 (R84). -/
theorem unlessZeroField_command {op : BitVec 4} {n : Nat} {field : BitVec n} {i j : Instr}
    (h : unlessZeroField op (field == 0#n) i = .command j) : field = 0#n ∧ i = j := by
  unfold unlessZeroField at h
  split at h
  · next hclear => exact ⟨beq_iff_eq.mp hclear, Decoded.command.inj h⟩
  · cases h

/-- CFG's operands, as the decoder slices them out of the word, are the fields of its low five bits (R81). -/
theorem cfg_operands (w : CmdWord) :
    Instr.cfg (schemeOfBits (w.extractLsb' 0 2)) (dirOfBit (w.getLsbD 2)) (w.getLsbD 3) (w.getLsbD 4)
      = .cfg (schemeOf (w.extractLsb' 0 5)) (dirOf (w.extractLsb' 0 5)) (caseOf (w.extractLsb' 0 5))
          (padOf (w.extractLsb' 0 5)) := by
  simp [schemeOf, dirOf, caseOf, padOf, extractLsb'_extractLsb']

/-- A word with the fields of a command decodes to it. -/
theorem decode_of_hasFieldsOf {w : CmdWord} {i : Instr} (h : HasFieldsOf w i) : decode w = .command i := by
  cases i with
  | nop | endMsg | srst =>
    obtain ⟨hop, hzero⟩ := h
    simp [decode, hop, hzero, unlessZeroField]
  | cfg sch dir c p =>
    obtain ⟨hop, hzero, hoperands⟩ := h
    simp only [decode, cfg_operands, hoperands]
    simp [hop, hzero, unlessZeroField]
  | putb | putc | rdreg =>
    obtain ⟨hop, hzero, hoperand⟩ := h
    simp [decode, hop, hzero, hoperand, unlessZeroField]
  | rdout addr =>
    obtain ⟨hop, haddr⟩ := h
    simp [decode, hop, haddr]

/-- A word that decodes to a command has its fields: the opcode was compared, the zero field was checked, and the
operands are the rest of the word. -/
theorem hasFieldsOf_of_decode {w : CmdWord} {i : Instr} (h : decode w = .command i) : HasFieldsOf w i := by
  simp only [decode, cfg_operands] at h
  split_ifs at h with hnop hcfg hputb hputc hend hrdreg hrdout hsrst
  · obtain ⟨hzero, rfl⟩ := unlessZeroField_command h
    exact ⟨hnop, hzero⟩
  · obtain ⟨hzero, rfl⟩ := unlessZeroField_command h
    exact ⟨hcfg, hzero, (configBits_fields _).symm⟩
  · obtain ⟨hzero, rfl⟩ := unlessZeroField_command h
    exact ⟨hputb, hzero, rfl⟩
  · obtain ⟨hzero, rfl⟩ := unlessZeroField_command h
    exact ⟨hputc, hzero, rfl⟩
  · obtain ⟨hzero, rfl⟩ := unlessZeroField_command h
    exact ⟨hend, hzero⟩
  · obtain ⟨hzero, rfl⟩ := unlessZeroField_command h
    exact ⟨hrdreg, hzero, rfl⟩
  · obtain rfl := Decoded.command.inj h
    exact ⟨hrdout, rfl⟩
  · obtain ⟨hzero, rfl⟩ := unlessZeroField_command h
    exact ⟨hsrst, hzero⟩

theorem decode_eq_command_iff (w : CmdWord) (i : Instr) : decode w = .command i ↔ encode i = w := by
  rw [encode_eq_iff]
  exact ⟨hasFieldsOf_of_decode, decode_of_hasFieldsOf⟩

/-- Settles O2: the encoder's word has the fields that the decoder reads. -/
theorem decodeOfEncodeIsIdentity : Obligations.DecodeOfEncodeIsIdentity :=
  fun i => (decode_eq_command_iff (encode i) i).mpr rfl

/-- Settles O3: the fields that the decoder reads are the whole word. -/
theorem encodeOfDecodeIsIdentity : Obligations.EncodeOfDecodeIsIdentity :=
  fun w i => (decode_eq_command_iff w i).mp

/-! The opcode map (R82) -/

/-- Where a row's mask is all ones, a word of the row has the slice of the row's pattern. -/
theorem slice_of_masked {w mask pattern : CmdWord} (h : w &&& mask = pattern) {start len : Nat}
    (hmask : mask.extractLsb' start len = BitVec.allOnes len) :
    w.extractLsb' start len = pattern.extractLsb' start len := by
  rw [← h, BitVec.extractLsb'_and, hmask, BitVec.and_allOnes]

/-- A word of a row has the fields of a command of the row's mnemonic: the mask covers the opcode and the zero field. -/
theorem exists_hasFieldsOf_of_row {w : CmdWord} {r : OpcodeRow} (hr : r ∈ opcodeMap) (h : w &&& r.mask = r.pattern) :
    ∃ i, HasFieldsOf w i ∧ mnemonicOf i = r.mnemonic := by
  simp only [opcodeMap, List.mem_cons, List.not_mem_nil, or_false] at hr
  obtain rfl | rfl | rfl | rfl | rfl | rfl | rfl | rfl := hr
  · exact ⟨.nop, ⟨slice_of_masked h rfl, slice_of_masked h rfl⟩, rfl⟩
  · exact ⟨.cfg _ _ _ _, ⟨slice_of_masked h rfl, slice_of_masked h rfl, (configBits_fields _).symm⟩, rfl⟩
  · exact ⟨.putb _, ⟨slice_of_masked h rfl, slice_of_masked h rfl, rfl⟩, rfl⟩
  · exact ⟨.putc _, ⟨slice_of_masked h rfl, slice_of_masked h rfl, rfl⟩, rfl⟩
  · exact ⟨.endMsg, ⟨slice_of_masked h rfl, slice_of_masked h rfl⟩, rfl⟩
  · exact ⟨.rdreg _, ⟨slice_of_masked h rfl, slice_of_masked h rfl, rfl⟩, rfl⟩
  · exact ⟨.rdout _, ⟨slice_of_masked h rfl, rfl⟩, rfl⟩
  · exact ⟨.srst, ⟨slice_of_masked h rfl, slice_of_masked h rfl⟩, rfl⟩

/-- The word of every command fits the row of its mnemonic. -/
theorem encode_fits_row (i : Instr) : EncodeFitsRow.Statement i := by
  cases i with
  | nop => exact EncodeFitsRow.nop
  | cfg sch dir c p => exact EncodeFitsRow.cfg sch dir c p
  | putb data => exact EncodeFitsRow.putb data
  | putc data => exact EncodeFitsRow.putc data
  | endMsg => exact EncodeFitsRow.endMsg
  | rdreg reg => exact EncodeFitsRow.rdreg reg
  | rdout addr => exact EncodeFitsRow.rdout addr
  | srst => exact EncodeFitsRow.srst

/-- A word that decodes to a command fits the row of its mnemonic. -/
theorem exists_row_of_decode {w : CmdWord} {i : Instr} (h : decode w = .command i) :
    ∃ r ∈ opcodeMap, r.mnemonic = mnemonicOf i ∧ w &&& r.mask = r.pattern := by
  obtain ⟨r, hr, hname, hfits⟩ := encode_fits_row i
  rw [(decode_eq_command_iff w i).mp h] at hfits
  exact ⟨r, hr, hname, beq_iff_eq.mp hfits⟩

theorem row_eq_of_mnemonic_eq : ∀ r ∈ opcodeMap, ∀ q ∈ opcodeMap, r.mnemonic = q.mnemonic → r = q := by decide

/-- A word is of a row exactly when it decodes to a command of the row's mnemonic. -/
theorem fits_row_iff (w : CmdWord) {r : OpcodeRow} (hr : r ∈ opcodeMap) :
    w &&& r.mask = r.pattern ↔ ∃ i, decode w = .command i ∧ mnemonicOf i = r.mnemonic := by
  constructor
  · intro hfits
    obtain ⟨i, hfields, hname⟩ := exists_hasFieldsOf_of_row hr hfits
    exact ⟨i, decode_of_hasFieldsOf hfields, hname⟩
  · rintro ⟨i, hdecode, hname⟩
    obtain ⟨q, hq, hqname, hfits⟩ := exists_row_of_decode hdecode
    obtain rfl := row_eq_of_mnemonic_eq q hq r hr (hqname.trans hname)
    exact hfits

/-- No word is of two rows: it decodes to one command, and a command has one mnemonic. -/
theorem row_eq_of_fits {w : CmdWord} {r q : OpcodeRow} (hr : r ∈ opcodeMap) (hq : q ∈ opcodeMap)
    (hwr : w &&& r.mask = r.pattern) (hwq : w &&& q.mask = q.pattern) : r = q := by
  obtain ⟨i, hi, hir⟩ := (fits_row_iff w hr).mp hwr
  obtain ⟨j, hj, hjq⟩ := (fits_row_iff w hq).mp hwq
  obtain rfl : i = j := Decoded.command.inj (hi.symm.trans hj)
  exact row_eq_of_mnemonic_eq r hr q hq (hir.symm.trans hjq)

/-- A word of no row is NAKed: it decodes to no command. -/
theorem runWord_of_no_row {w : CmdWord} (h : ∀ r ∈ opcodeMap, w &&& r.mask ≠ r.pattern) (s : State) :
    runWord w s = .next (nak s) := by
  cases hdecode : decode w with
  | command i =>
    obtain ⟨r, hr, -, hfits⟩ := exists_row_of_decode hdecode
    exact absurd hfits (h r hr)
  | reserved why => exact runWord_of_reserved hdecode s

/-- Settles O4: the rows select the fields of the commands. -/
theorem decoderFollowsOpcodeMap : Obligations.DecoderFollowsOpcodeMap :=
  ⟨fun w _ hr => fits_row_iff w hr, fun _ _ _ hr hq => row_eq_of_fits hr hq, fun _ s h => runWord_of_no_row h s⟩

/-- Settles O5: the sample words, one by one. -/
theorem sampleWordsDecode : Obligations.SampleWordsDecode := by
  unfold Obligations.SampleWordsDecode
  decide

end Sys2Proof.Laws
end

section
/-! PROOFS. The step on a reserved word or without a word, and the response of every command and word (30_encoding.md
R86, R87, 60_exceptions.md R249). -/

namespace Sys2Proof.Laws

open Sys2Proof.Machine

/-- Settles O7: the port fetches the word once its position has moved, and a reserved word is NAKed. -/
theorem stepOnReservedWordAndOnNoWord : Obligations.StepOnReservedWordAndOnNoWord :=
  ⟨fun _ _ _ hword hdecode => StepResult.step_eq (.reserved hword hdecode), fun _ hword => step_of_no_command hword⟩

/-- Zero extension from a payload's width or less leaves the NAK bit clear (R86). -/
theorem nakBit_of_setWidth {n : Nat} (hn : n ≤ 31) (v : BitVec n) : (v.setWidth 32).getLsbD 31 = false := by
  rw [BitVec.getLsbD_setWidth, BitVec.getLsbD_of_ge v 31 hn, Bool.and_false]

/-- A command that responds STATUS responds the STATUS it leaves (R86). -/
theorem respondStatus_response_after (s : State) :
    (respondStatus s).response = some ((statusOf (respondStatus s)).setWidth 32) :=
  congrArg some (BitVec.setWidth_setWidth (by decide))

/-- SRST's response 0 is the STATUS that a reset leaves (40_control.md R117). -/
theorem srst_response_after (s : State) : (respond 0#31 (softReset s)).response
    = some ((statusOf (respond 0#31 (softReset s))).setWidth 32) := by
  have hstatus : statusOf (respond 0#31 (softReset s)) = 0#5 := by
    simp [statusOf, errl, softReset, State.resetWith, stateCode]
  rw [hstatus]
  rfl

/-- A NAK responds 0x80000000 | STATUS, with ILL in the STATUS (60_exceptions.md R238). -/
theorem nak_response_after (s : State) : (nak s).response = some (0x80000000#32 ||| (statusOf (nak s)).setWidth 32)
    ∧ (statusOf (nak s)).getLsbD 4 = true := by
  obtain ⟨-, -, -, hill⟩ := status_layout true s.ovf (errl s) (stateCode s.msgState)
  exact ⟨rfl, hill⟩

/-- Settles O15: one response per accepted command, and the NAK's. -/
theorem responseOfEveryCommand : Obligations.ResponseOfEveryCommand := by
  refine ⟨fun s i accepted => ?_, fun s i cause => ⟨_, exec_of_nakCause cause, nak_response_after s⟩,
    fun s w hw => ⟨_, runWord_of_reservedWord hw s, nak_response_after s⟩⟩
  obtain ⟨t, ht⟩ := exists_commandResult s i
  refine ⟨t, ?_⟩
  have hexec := ht.exec_eq
  cases ht with
  | nop | cfg | putb | putc | endMsg =>
    exact ⟨_, hexec, respondStatus_response_after _, nakBit_of_setWidth (by decide) _, rfl⟩
  | rdreg value => exact ⟨_, hexec, rfl, nakBit_of_setWidth (by decide) _, _, value, rfl⟩
  | rdout => exact ⟨_, hexec, rfl, nakBit_of_setWidth (by decide) _, BitVec.setWidth_setWidth (by decide)⟩
  | srst => exact ⟨_, hexec, srst_response_after s, nakBit_of_setWidth (by decide) _, rfl⟩
  | naked cause => exact absurd cause accepted

end Sys2Proof.Laws
end

section
/-! PROOFS. The control commands NOP, CFG and END, state by state, and what they leave unchanged (40_control.md R110 to
R117). -/

namespace Sys2Proof.Laws

open Sys2Proof.Machine

/-! The answers, written out -/

theorem respondStatus_eq_answered (s : State) : respondStatus s = answered s := by
  rw [respondStatus, respond, BitVec.setWidth_setWidth (by decide)]
  rfl

/-- A word whose zero field is not 0 is NAKed, for the opcodes whose zero field is w[11:0] (30_encoding.md R84). -/
theorem runWord_of_zeroField {w : CmdWord} (s : State)
    (hop : w.extractLsb' 12 4 = 0#4 ∨ w.extractLsb' 12 4 = 4#4 ∨ w.extractLsb' 12 4 = 7#4)
    (hzero : w.extractLsb' 0 12 ≠ 0#12) : runWord w s = .next (rejected s) :=
  runWord_of_reservedWord (.inr (.inl ⟨hop, hzero⟩)) s

/-! NOP and CFG -/

/-- Settles O16: NOP responds STATUS, and R84 reserves its other words. -/
theorem nopOnlyResponds : Obligations.NopOnlyResponds :=
  ⟨fun s => congrArg Host.Outcome.next (respondStatus_eq_answered s),
    fun s _ hop hzero => runWord_of_zeroField s (.inl hop) hzero⟩

/-- STATUS in a new message: ACTIVE, no error, no overflow, and the ILL of before (R111). -/
theorem statusOf_beginMessage (config : BitVec 5) (s : State) : (statusOf (beginMessage config s)).setWidth 32
    = 0x01#32 ||| ((BitVec.ofBool s.ill).setWidth 32 <<< 4) := by
  have hstatus : statusOf (beginMessage config s) = BitVec.ofBool s.ill ++ 0#1 ++ 0#1 ++ 1#2 := rfl
  rw [hstatus]
  cases s.ill <;> decide

/-- Settles O17: CFG begins a message with its word's operand bits, and R24's check or R84 NAKs the rest. -/
theorem cfgStartsMessageOrIsNaked : Obligations.CfgStartsMessageOrIsNaked := by
  refine ⟨fun s sch dir c p legal => ?_, fun s sch dir c p illegal => execCfg_illegal s illegal,
    fun s w hop hzero => runWord_of_reservedWord (.inr (.inr (.inl ⟨hop, hzero⟩))) s⟩
  rw [exec, execCfg_legal s legal, respondStatus_eq_answered, answered, statusOf_beginMessage, encode_cfg_low_bits]
  rfl

/-! END: the flush before it clears the window -/

/-- What END's flush does to the output and the latched reason, before it clears the window state (R113, 41_encode.md
R147, 42_decode.md R185 to R187). -/
def flushedOutput (s : State) : State :=
  if s.config.getLsbD 2 = false then
    (if s.cnt = 0#4 then s else emitAll (chunkText s.config s.acc s.cnt.toNat) s)
  else if s.errReason ≠ 0#3 ∨ s.cnt = 0#4 ∨ schemeOf s.config = .hex then s
  else if s.config.getLsbD 4 = false then { s with errReason := 1#3 }
  else windowClose s

/-- A chunk's groups are the slices of R143, written as quotients. -/
theorem accGroup_eq (sch : Scheme) (acc : Accum) (i : Nat) : accGroup sch acc i
    = acc.toNat / 2 ^ (windowBits sch - groupBits sch * (i + 1)) % 2 ^ groupBits sch := by
  rw [accGroup, BitVec.extractLsb'_toNat, Nat.shiftRight_eq_div_pow]

/-- The characters that EmitChunk emits (41_encode.md R143). -/
theorem emitChunk_eq (b : Nat) (s : State) : emitChunk b s = emitAll (chunkText s.config s.acc b) s := by
  simp only [emitChunk, chunkDataChars, accGroup_eq]
  rfl

theorem cnt_pos_iff (s : State) : 0 < s.cnt.toNat ↔ s.cnt ≠ 0#4 := by
  rw [Nat.pos_iff_ne_zero]
  exact not_congr (BitVec.toNat_inj (y := 0#4))

theorem encodeFlush_eq {s : State} (encoding : s.config.getLsbD 2 = false) :
    encodeFlush s = clearChunk (flushedOutput s) := by
  rw [encodeFlush, flushedOutput, if_pos encoding]
  by_cases hempty : s.cnt = 0#4
  · simp [hempty]
  · simp [hempty, cnt_pos_iff, emitChunk_eq]

/-- A partial window of HEX is left alone. -/
theorem flushWindow_hex {s : State} (hex : schemeOf s.config = .hex) : flushWindow s = s := by
  simp [flushWindow, hex]

/-- A partial window of another scheme is closed under Ignore and latches INVALID_CHARACTER under Required. -/
theorem flushWindow_of_ne_hex {s : State} (hex : schemeOf s.config ≠ .hex) :
    flushWindow s = if padOf s.config = false then raise .invalidCharacter s else windowClose s := by
  unfold flushWindow
  cases hscheme : schemeOf s.config with
  | hex => exact absurd hscheme hex
  | b32 | b64 | b64url => cases padOf s.config <;> rfl

theorem decodeFlush_eq {s : State} (decoding : s.config.getLsbD 2 = true) :
    decodeFlush s = clearWindow (flushedOutput s) := by
  rw [decodeFlush, flushedOutput, if_neg (ne_false_of_eq_true decoding)]
  simp only [cnt_pos_iff]
  by_cases unlatched : s.errReason = 0#3
  case neg => simp [unlatched]
  by_cases hempty : s.cnt = 0#4
  case pos => simp [hempty]
  by_cases hex : schemeOf s.config = .hex
  case pos => simp [hex, flushWindow_hex hex]
  rw [if_pos ⟨unlatched, hempty⟩, if_neg (by simp [unlatched, hempty, hex]), flushWindow_of_ne_hex hex,
    raise_first _ unlatched]
  rfl

/-- END's flush is `flushedOutput` with some of the window state cleared. -/
theorem flushMessage_eq (s : State) :
    flushMessage s = clearChunk (flushedOutput s) ∨ flushMessage s = clearWindow (flushedOutput s) := by
  unfold flushMessage
  split
  · next encoding => exact .inl (encodeFlush_eq ((dirOfBit_eq_encode_iff _).mp encoding))
  · next decoding => exact .inr (decodeFlush_eq ((dirOfBit_eq_decode_iff _).mp decoding))

theorem flushedOutput_frame (s : State) : MessageFrame s (flushedOutput s) := by
  have hframe := flushMessage_frame s
  obtain h | h := flushMessage_eq s <;> rw [h] at hframe <;> exact { hframe with }

/-! END: the final reason and the commit -/

/-- FinalReason (R115), with the bits of CONFIG named by number. -/
theorem finalReason_eq (s : State) : finalReason s =
    if s.config.getLsbD 2 = true ∧ schemeOf s.config = .hex ∧ s.inCount.getLsbD 0 = true then 3#3
    else if s.errReason = 0#3 ∧ s.ovf = true then 4#3 else s.errReason := by
  simp only [finalReason, dirOf, dirOfBit_eq_decode_iff, errCode]

theorem closeMessage_eq_closedWith (s : State) : closeMessage s = closedWith (finalReason s) s := by
  by_cases hok : finalReason s = 0#3 <;> simp [closeMessage, commit, closedWith, clearWindow, hok]

/-- END clears the window state once more, so what the flush cleared of it makes no difference. -/
theorem closeMessage_flushMessage (s : State) :
    closeMessage (flushMessage s) = closedWith (finalReason (flushedOutput s)) (flushedOutput s) := by
  rw [closeMessage_eq_closedWith]
  obtain h | h := flushMessage_eq s <;> rw [h] <;> rfl

/-- Settles O19: END closes with the final reason of its flush, whose CONFIG and IN_COUNT are those of before. -/
theorem endClosesMessage : Obligations.EndClosesMessage := by
  refine ⟨fun s active => ?_, fun s inactive => execEnd_rejected inactive,
    fun s w hop hzero => runWord_of_zeroField s (.inr (.inl hop)) hzero⟩
  have hframe := flushedOutput_frame s
  rw [exec, execEnd_accepted active, respondStatus_eq_answered, closeMessage_flushMessage, finalReason_eq,
    hframe.config, hframe.inCount]
  rfl

/-! What the control commands leave unchanged -/

/-- The output of `t` is that of `s` after some Emits (20_memory.md R51, R52). -/
def OutputEmitted (s t : State) : Prop :=
  ∃ xs, t.obuf = (emitAll xs s).obuf ∧ t.outCount = (emitAll xs s).outCount

/-- Emits store at addresses from OUT_COUNT before up to OUT_COUNT after them only. -/
theorem OutputEmitted.read_eq {s t : State} (h : OutputEmitted s t) {a : Nat}
    (ha : a < s.outCount.toNat ∨ t.outCount.toNat ≤ a) : Memory.read t.obuf a = Memory.read s.obuf a := by
  obtain ⟨xs, hobuf, hcount⟩ := h
  rw [hcount] at ha
  rw [hobuf]
  exact emitAll_frame xs s a ha

theorem windowClose_outputEmitted (s : State) : OutputEmitted s (windowClose s) := by
  obtain ⟨-, h⟩ | ⟨n, -, h⟩ := windowClose_cases s <;> rw [h]
  · exact ⟨[], by simp⟩
  · exact ⟨_, rfl, rfl⟩

theorem flushedOutput_outputEmitted (s : State) : OutputEmitted s (flushedOutput s) := by
  have hnone : OutputEmitted s s := ⟨[], rfl, rfl⟩
  unfold flushedOutput
  split_ifs
  · exact hnone
  · exact ⟨_, rfl, rfl⟩
  · exact hnone
  · exact hnone
  · exact windowClose_outputEmitted s

theorem flushMessage_outputEmitted (s : State) : OutputEmitted s (flushMessage s) := by
  have houtput := flushedOutput_outputEmitted s
  obtain h | h := flushMessage_eq s <;> rw [h] <;> exact houtput

/-- Settles O42: the frame of END is its flush's, which only emits; NOP, CFG and SRST keep their fields by
definition. -/
theorem controlCommandFrame : Obligations.ControlCommandFrame := by
  refine ⟨fun s => ⟨_, rfl, rfl⟩, fun s sch dir c p legal => ⟨_, execCfg_legal s legal, rfl, rfl, rfl, rfl, rfl⟩,
    fun s active => ⟨_, execEnd_accepted active, ?_⟩, fun s => ⟨_, rfl, rfl, rfl, rfl⟩⟩
  obtain ⟨hconfig, -, hill, hinCount, hdepth, hprogram, hpos⟩ := flushMessage_frame s
  refine ⟨(closeMessage_config _).trans hconfig, (closeMessage_inCount _).trans hinCount,
    (closeMessage_ill _).trans hill, (closeMessage_depth _).trans hdepth,
    (closeMessage_hostProgram _).trans hprogram, (closeMessage_hostPos _).trans hpos, fun a ha => ?_⟩
  rw [respondStatus_obuf, closeMessage_obuf, (flushMessage_outputEmitted s).read_eq ha]

end Sys2Proof.Laws
end

section
/-! PROOFS. Bit sequences: the numbers they stand for, their slices, and the k-bit groups of a byte sequence
(20_memory.md R60, 41_encode.md R144, R145). -/

namespace Sys2Proof.Laws

open Sys2Proof.Machine

/-! The number of a bit sequence -/

/-- One more bit on the right doubles the number. -/
theorem numberOfBits_concat (bits : List Bool) (b : Bool) :
    numberOfBits (bits ++ [b]) = 2 * numberOfBits bits + b.toNat := by
  rw [numberOfBits, List.foldl_concat]
  rfl

/-- Bits appended on the right are the low bits of the number. -/
theorem numberOfBits_append (hi lo : List Bool) :
    numberOfBits (hi ++ lo) = numberOfBits hi * 2 ^ lo.length + numberOfBits lo := by
  induction lo using List.reverseRecOn with
  | nil => simp [numberOfBits]
  | append_singleton lo b ih =>
    rw [← List.append_assoc, numberOfBits_concat, numberOfBits_concat, ih, List.length_append, List.length_singleton,
      Nat.pow_succ]
    ring

theorem numberOfBits_lt (bits : List Bool) : numberOfBits bits < 2 ^ bits.length := by
  induction bits using List.reverseRecOn with
  | nil => decide
  | append_singleton bits b ih =>
    have hb := Bool.toNat_le b
    rw [numberOfBits_concat, List.length_append, List.length_singleton, Nat.pow_succ]
    omega

@[simp] theorem numberOfBits_zeros (n : Nat) : numberOfBits (List.replicate n false) = 0 := by
  induction n with
  | zero => rfl
  | succ n ih => simpa [List.replicate_succ, numberOfBits] using ih

/-- The bits between the high and the low ones are a quotient's remainder. -/
theorem numberOfBits_middle (hi mid lo : List Bool) :
    numberOfBits (hi ++ mid ++ lo) / 2 ^ lo.length % 2 ^ mid.length = numberOfBits mid := by
  rw [numberOfBits_append, Nat.mul_comm, Nat.mul_add_div (Nat.two_pow_pos _),
    Nat.div_eq_of_lt (numberOfBits_lt lo), numberOfBits_append, Nat.add_zero, Nat.add_comm,
    Nat.add_mul_mod_self_right, Nat.mod_eq_of_lt (numberOfBits_lt mid)]

/-- A slice of a bit sequence, as a slice of its number. -/
theorem numberOfBits_slice {bits : List Bool} {start len : Nat} (h : start + len ≤ bits.length) :
    numberOfBits ((bits.drop start).take len) = numberOfBits bits / 2 ^ (bits.length - (start + len)) % 2 ^ len := by
  have hsplit : bits.take start ++ (bits.drop start).take len ++ bits.drop (start + len) = bits := by
    rw [List.append_assoc, ← List.drop_drop, List.take_append_drop, List.take_append_drop]
  have hmiddle := numberOfBits_middle (bits.take start) ((bits.drop start).take len) (bits.drop (start + len))
  rw [hsplit, List.length_drop, List.length_take, List.length_drop, Nat.min_eq_left (by omega)] at hmiddle
  exact hmiddle.symm

/-- A slice that ends inside the first part of a sequence does not see the second. -/
theorem slice_append {α : Type} {l m : List α} {start len : Nat} (h : start + len ≤ l.length) :
    ((l ++ m).drop start).take len = (l.drop start).take len := by
  rw [List.drop_append_of_le_length (by omega), List.take_append_of_le_length (by rw [List.length_drop]; omega)]

/-! Groups -/

/-- How many zero bits stand on the right does not matter, as long as the group ends inside them. -/
theorem slice_zeros {bits : List Bool} {start len m n : Nat} (hm : start + len ≤ bits.length + m)
    (hn : start + len ≤ bits.length + n) :
    ((bits ++ List.replicate m false).drop start).take len
      = ((bits ++ List.replicate n false).drop start).take len := by
  have hmore (j e : Nat) (hj : start + len ≤ bits.length + j) :
      ((bits ++ List.replicate (j + e) false).drop start).take len
        = ((bits ++ List.replicate j false).drop start).take len := by
    rw [List.replicate_add, ← List.append_assoc, slice_append (by simpa using hj)]
  rcases Nat.le_total m n with h | h
  · rw [← Nat.add_sub_cancel' h, hmore m _ hm]
  · rw [← Nat.add_sub_cancel' h, hmore n _ hn]

/-- A group of k bits is a slice of the number whose `e` low bits are the zeros on the right (R145). -/
theorem bitGroup_eq {k e i : Nat} {bits : List Bool} (hk : k * (i + 1) ≤ bits.length + k)
    (he : k * (i + 1) ≤ bits.length + e) :
    bitGroup k bits i = numberOfBits bits * 2 ^ e / 2 ^ (bits.length + e - k * (i + 1)) % 2 ^ k := by
  rw [Nat.mul_succ] at hk he
  rw [bitGroup, slice_zeros hk he, numberOfBits_slice (by simpa using he), numberOfBits_append]
  simp [Nat.mul_succ]

/-- A group that ends inside the first part of a bit sequence. -/
theorem bitGroup_append_left {k i : Nat} {bits : List Bool} (more : List Bool) (h : k * (i + 1) ≤ bits.length) :
    bitGroup k (bits ++ more) i = bitGroup k bits i := by
  rw [Nat.mul_succ] at h
  rw [bitGroup, bitGroup, List.append_assoc, slice_append h, slice_append h]

/-- A group behind a first part of whole groups is a group of the rest. -/
theorem bitGroup_append_right {k m : Nat} {bits : List Bool} (more : List Bool) (h : k * m = bits.length) (i : Nat) :
    bitGroup k (bits ++ more) (m + i) = bitGroup k more i := by
  rw [bitGroup, bitGroup, List.append_assoc, Nat.mul_add, h, List.drop_length_add_append]

/-! The bits of bytes -/

theorem bitsOfBytes_append (xs ys : List Byte) : bitsOfBytes (xs ++ ys) = bitsOfBytes xs ++ bitsOfBytes ys :=
  List.flatMap_append

@[simp] theorem bitsOfBytes_length (bytes : List Byte) : (bitsOfBytes bytes).length = 8 * bytes.length := by
  simp [bitsOfBytes, List.length_flatMap, Nat.mul_comm]

/-- The eight bits of a byte stand for the byte. -/
theorem numberOfBits_byte (b : Byte) : numberOfBits (bitsOfBytes [b]) = b.toNat := by revert b; decide

/-! Lengths -/

theorem ceilDiv_le_iff {a b c : Nat} (hb : 0 < b) : ceilDiv a b ≤ c ↔ a ≤ b * c := ceilDiv_le_iff_le_mul hb

/-- Bytes of whole chunks take whole windows of characters (R144). -/
theorem dataLength_add_chunks (sch : Scheme) (m n : Nat) :
    dataLength sch (chunkBytes sch * m + n) = windowChars sch * m + dataLength sch n := by
  obtain ⟨hchunk, hwindow⟩ := window_is_chunk sch
  have hbits : 8 * (chunkBytes sch * m + n) = groupBits sch * (windowChars sch * m) + 8 * n := by
    rw [Nat.mul_add, ← Nat.mul_assoc, hchunk, ← hwindow, Nat.mul_assoc]
  have hk := groupBits_pos sch
  rw [dataLength, dataLength, ceilDiv, ceilDiv, hbits, Nat.add_assoc, Nat.add_sub_assoc (by omega),
    Nat.mul_add_div hk]

/-- A chunk's data characters never exceed W (R144). -/
theorem dataLength_le_window {sch : Scheme} {b : Nat} (h : b ≤ chunkBytes sch) :
    dataLength sch b ≤ windowChars sch := by
  obtain ⟨hchunk, hwindow⟩ := window_is_chunk sch
  rw [dataLength, ceilDiv_le_iff (groupBits_pos sch)]
  omega

/-- Pads only add to the data characters (R149). -/
theorem dataLength_le_encodedLength (sch : Scheme) (padBit : Bool) (n : Nat) :
    dataLength sch n ≤ encodedLength sch padBit n := by
  unfold encodedLength
  split
  · obtain ⟨hchunk, hwindow⟩ := window_is_chunk sch
    have hcover := (ceilDiv_le_iff (chunkBytes_pos sch)).mp (Nat.le_refl (ceilDiv n (chunkBytes sch)))
    rw [dataLength, ceilDiv_le_iff (groupBits_pos sch), ← Nat.mul_assoc, hwindow, ← hchunk, Nat.mul_assoc]
    omega
  · exact Nat.le_refl _

theorem encodedLength_add_chunks (sch : Scheme) (padBit : Bool) (m n : Nat) :
    encodedLength sch padBit (chunkBytes sch * m + n) = windowChars sch * m + encodedLength sch padBit n := by
  have hchunk := chunkBytes_pos sch
  have hceil : ceilDiv (chunkBytes sch * m + n) (chunkBytes sch) = m + ceilDiv n (chunkBytes sch) := by
    rw [ceilDiv, ceilDiv, Nat.add_assoc, Nat.add_sub_assoc (by omega), Nat.mul_add_div hchunk]
  unfold encodedLength
  split
  · rw [hceil, Nat.mul_add]
  · exact dataLength_add_chunks sch m n

/-- A message of whole chunks has no pads. -/
theorem encodedLength_chunks (sch : Scheme) (padBit : Bool) (m : Nat) :
    encodedLength sch padBit (chunkBytes sch * m) = windowChars sch * m
      ∧ dataLength sch (chunkBytes sch * m) = windowChars sch * m := by
  have hencoded := encodedLength_add_chunks sch padBit m 0
  have hdata := dataLength_add_chunks sch m 0
  have hnone : encodedLength sch padBit 0 = 0 ∧ dataLength sch 0 = 0 := by
    cases sch <;> cases padBit <;> decide
  rw [hnone.1] at hencoded
  rw [hnone.2] at hdata
  exact ⟨hencoded, hdata⟩

end Sys2Proof.Laws
end

section
/-! PROOFS. PUTB and PUTC, state by state: the chunk PUTB fills, what both leave unchanged, and the characters of one
chunk (41_encode.md R141 to R145, R150, 42_decode.md R171). -/

namespace Sys2Proof.Laws

open Sys2Proof.Machine

/-! PUTB -/

/-- NB + 1 reaches CB only without wrapping. -/
theorem succ_cnt_eq_chunkBytes_iff (c : BitVec 4) (sch : Scheme) :
    (c + 1#4).toNat = chunkBytes sch ↔ c.toNat + 1 = chunkBytes sch := by
  have hpos := chunkBytes_pos sch
  have hfive := chunkBytes_le_five sch
  rw [BitVec.toNat_add]
  simp only [BitVec.toNat_ofNat]
  omega

/-- Settles O22: the byte enters ACC, and the chunk is emitted when NB has become CB; R239 and R84 NAK the rest. -/
theorem putbPushesByteAndEmitsFullChunk : Obligations.PutbPushesByteAndEmitsFullChunk := by
  refine ⟨fun s data active encoding => ?_, fun s data cause => exec_of_nakCause cause,
    fun s w hop hzero => runWord_of_reservedWord (.inr (.inr (.inr (.inl ⟨.inl hop, hzero⟩)))) s⟩
  have hin : inMessage .encode s = true := (inMessage_iff _ s).mpr ⟨active, (dirOfBit_eq_encode_iff _).mpr encoding⟩
  have hexec : exec (.putb data) s = .next (answered (completeChunk (insertByte data (countInput s)))) :=
    (execPutb_accepted data hin).trans (congrArg _ (respondStatus_eq_answered _))
  have hcnt := succ_cnt_eq_chunkBytes_iff s.cnt (schemeOf s.config)
  obtain ⟨hopen, h⟩ | ⟨hfull, h⟩ := completeChunk_cases (insertByte data (countInput s)) <;> rw [hexec, h]
  · exact ⟨fun _ => rfl, fun hfull => absurd (hcnt.mpr hfull) hopen⟩
  · exact ⟨fun hopen => absurd (hcnt.mp hfull) hopen, fun _ => by rw [emitChunk_eq]; rfl⟩

/-- PUTB never writes ERR_REASON, BITS and PADSEEN, accepted or NAKed (R141, R148). -/
theorem CommandResult.putb_keeps {data : Byte} {s t : State} (h : CommandResult s (.putb data) t) :
    t.errReason = s.errReason ∧ t.bits = s.bits ∧ t.padSeen = s.padSeen := by
  cases h with
  | putb encoding =>
    obtain ⟨-, h⟩ | ⟨-, h⟩ := completeChunk_cases (insertByte data (countInput s)) <;> rw [h]
    · exact ⟨rfl, rfl, rfl⟩
    · simp [emitChunk]
  | naked cause => exact ⟨rfl, rfl, rfl⟩

/-! What PUTB and PUTC leave unchanged -/

/-- Nothing is stored outside the addresses from OUT_COUNT of `s` up to OUT_COUNT of `t` (20_memory.md R51). -/
structure OutputFrame (s t : State) : Prop where
  count : s.outCount.toNat ≤ t.outCount.toNat
  read : ∀ a, a < s.outCount.toNat ∨ t.outCount.toNat ≤ a → Memory.read t.obuf a = Memory.read s.obuf a

theorem OutputFrame.of_same {s t : State} (hcount : t.outCount = s.outCount) (hobuf : t.obuf = s.obuf) :
    OutputFrame s t := ⟨by rw [hcount], fun _ _ => by rw [hobuf]⟩

theorem OutputFrame.trans {s t u : State} (h : OutputFrame s t) (k : OutputFrame t u) : OutputFrame s u where
  count := h.count.trans k.count
  read := fun a ha => by
    have hst := h.count
    have htu := k.count
    rw [k.read a (by omega), h.read a (by omega)]

theorem OutputEmitted.outputFrame {s t : State} (h : OutputEmitted s t) : OutputFrame s t where
  count := by
    obtain ⟨xs, -, hcount⟩ := h
    rw [hcount]
    exact emitAll_outCount_mono xs s
  read := fun _ ha => h.read_eq ha

theorem completeChunk_outputFrame (s : State) : OutputFrame s (completeChunk s) := by
  obtain ⟨-, h⟩ | ⟨-, h⟩ := completeChunk_cases s <;> rw [h]
  · exact .of_same rfl rfl
  · exact OutputEmitted.outputFrame ⟨_, rfl, rfl⟩

theorem raise_outputFrame (e : ErrReason) (s : State) : OutputFrame s (raise e s) :=
  .of_same (raise_outCount s e) (raise_obuf s e)

theorem advanceWindow_outputFrame (s : State) : OutputFrame s (advanceWindow s) := by
  have hstep : OutputFrame s { s with cnt := s.cnt + 1#4 } := .of_same rfl rfl
  obtain ⟨-, h⟩ | ⟨-, h⟩ := advanceWindow_cases s <;> rw [h]
  · exact hstep
  · exact hstep.trans (windowClose_outputEmitted _).outputFrame

theorem consumeChar_outputFrame (data : Byte) (s : State) : OutputFrame s (consumeChar data s) := by
  have hpad : OutputFrame s { s with padSeen := true } := .of_same rfl rfl
  have hgroup (v : BitVec 6) : OutputFrame s (insertGroup v s) := .of_same rfl rfl
  obtain ⟨-, h⟩ | ⟨v, -, -, h⟩ | ⟨v, -, -, h⟩ | ⟨-, h⟩ := consumeChar_cases data s <;> rw [h]
  · exact hpad.trans (advanceWindow_outputFrame _)
  · exact raise_outputFrame _ s
  · exact (hgroup v).trans (advanceWindow_outputFrame _)
  · exact raise_outputFrame _ s

theorem acceptChar_outputFrame (data : Byte) (s : State) : OutputFrame s (acceptChar data s) := by
  have hcount : OutputFrame s (countInput s) := .of_same rfl rfl
  unfold acceptChar
  split
  · exact hcount.trans (consumeChar_outputFrame data _)
  · exact hcount

/-- Settles O41: the operations of both commands keep the message's frame and store from OUT_COUNT on only. -/
theorem inputCommandFrame : Obligations.InputCommandFrame := by
  intro s i hi
  obtain ⟨t, ht⟩ := exists_commandResult s i
  obtain ⟨hprogram, hpos⟩ := ht.host
  have hframe : t.config = s.config ∧ t.msgState = s.msgState ∧ t.depth = s.depth ∧ OutputFrame s t := by
    cases ht with
    | @putb data =>
      have h := putByte_frame data s
      have hinsert : OutputFrame s (insertByte data (countInput s)) := .of_same rfl rfl
      have houtput := hinsert.trans (completeChunk_outputFrame _)
      exact ⟨h.config, h.msgState, h.depth, houtput.count, houtput.read⟩
    | @putc data =>
      have h := acceptChar_frame data s
      have houtput := acceptChar_outputFrame data s
      exact ⟨h.config, h.msgState, h.depth, houtput.count, houtput.read⟩
    | naked => exact ⟨rfl, rfl, rfl, .of_same rfl rfl⟩
    | nop | cfg | endMsg | rdreg | rdout | srst => simp at hi
  obtain ⟨hconfig, hstate, hdepth, houtput⟩ := hframe
  refine ⟨t, ht.exec_eq, hconfig, hstate, hdepth, hprogram, hpos, fun accepted => ?_, fun hputb => ?_, houtput.count,
    houtput.read⟩
  · exact ht.ill_of_accepted accepted (by rintro rfl; simp at hi)
  · obtain ⟨b, rfl⟩ := hputb
    exact ht.putb_keeps

/-! The characters of one chunk -/

@[simp] theorem chunkDataChars_length (config : BitVec 5) (acc : Accum) (b : Nat) :
    (chunkDataChars config acc b).length = charsOfBytes (schemeOf config) b := by simp [chunkDataChars]

@[simp] theorem chunkPads_length (config : BitVec 5) (b : Nat) : (chunkPads config b).length =
    if padOf config = false ∧ hasPad (schemeOf config) = true then
      windowChars (schemeOf config) - charsOfBytes (schemeOf config) b
    else 0 := by
  unfold chunkPads
  split
  · exact List.length_replicate
  · rfl

/-- Settles O24: the lists' lengths are R144's formulas, which the table lists value by value. -/
theorem charactersPerChunkTable : Obligations.CharactersPerChunkTable := by
  intro acc caseBit padBit
  simp only [chunkDataChars_length, chunkPads_length, schemeOf_configBits, padOf_configBits]
  refine ⟨by decide, ?_, ?_⟩
  · rintro rfl
    decide
  · rintro rfl sch b
    rfl

/-- The case of HEX and B32 changes the letters only, by 0x20 (R150). -/
theorem encLUT_lower (v : Nat) (hv : v < 32) :
    (v < 16 → encLUT .hex true v
        = if (encLUT .hex false v).toNat < 0x40 then encLUT .hex false v else encLUT .hex false v + 0x20#8)
      ∧ encLUT .b32 true v
        = if (encLUT .b32 false v).toNat < 0x40 then encLUT .b32 false v else encLUT .b32 false v + 0x20#8 := by
  revert v; decide

/-- Settles O28: the alphabets are compared value by value. -/
theorem caseChangesLettersOnly : Obligations.CaseChangesLettersOnly :=
  ⟨fun v hv => (encLUT_lower v (by omega)).1 hv, fun v hv => (encLUT_lower v hv).2, by decide⟩

/-- A slice of r + z bits whose z low bits lie in the clear part of a number. -/
theorem slice_of_clear {acc f z : Nat} (hclear : acc % 2 ^ (f + z) = 0) (r : Nat) :
    acc / 2 ^ f % 2 ^ (r + z) = acc / 2 ^ (f + z) % 2 ^ r * 2 ^ z := by
  obtain ⟨q, rfl⟩ := Nat.dvd_of_mod_eq_zero hclear
  rw [Nat.mul_div_cancel_left q (Nat.two_pow_pos _), Nat.pow_add, Nat.mul_assoc,
    Nat.mul_div_cancel_left _ (Nat.two_pow_pos _), Nat.pow_add, Nat.mul_comm _ q, Nat.mul_mod_mul_right]

/-- Settles O25: the last group ends k − r bits inside the clear part of ACC. -/
theorem partialGroupIsZeroFilledOnTheRight : Obligations.PartialGroupIsZeroFilledOnTheRight := by
  refine ⟨fun sch acc b hb hshort _ hlow hpartial => ?_, fun sch => by cases sch <;> decide⟩
  intro n r
  obtain ⟨hcover, hlast⟩ : 8 * b ≤ groupBits sch * n ∧ groupBits sch * n < 8 * b + groupBits sch :=
    mul_ceilDiv_bounds (groupBits_pos sch) (8 * b)
  have hinside : groupBits sch * n ≤ windowBits sch :=
    (window_is_chunk sch).2 ▸ Nat.mul_le_mul_left _ (dataLength_le_window (Nat.le_of_lt hshort))
  have hne : groupBits sch * n ≠ 8 * b := fun h => hpartial (h ▸ Nat.mul_mod_right _ _)
  have hn : n - 1 + 1 = n := Nat.sub_add_cancel (Nat.pos_of_mul_pos_left (by omega : 0 < groupBits sch * n))
  have hprevious : groupBits sch * n = groupBits sch * (n - 1) + groupBits sch := by rw [← Nat.mul_add_one, hn]
  have hr : r = 8 * b - groupBits sch * (n - 1) := rfl
  refine ⟨by omega, by omega, ?_⟩
  have hclear : windowBits sch - 8 * b = windowBits sch - groupBits sch * n + (groupBits sch - r) := by omega
  have hwidth : groupBits sch = r + (groupBits sch - r) := by omega
  rw [hclear] at hlow ⊢
  rw [accGroup_eq, hn, ← slice_of_clear hlow r, ← hwidth]

end Sys2Proof.Laws
end

section
/-! PROOFS. The encode path: the text of a chunk, and of the whole message (41_encode.md R141 to R149). -/

namespace Sys2Proof.Laws

open Sys2Proof.Machine

/-! A chunk and its text -/

/-- What ACC holds of a chunk: the bits of its bytes at the top of the window, zeros below (20_memory.md R60, R141). -/
def chunkValue (sch : Scheme) (bytes : List Byte) : Nat :=
  numberOfBits (bitsOfBytes bytes) * 2 ^ (windowBits sch - 8 * bytes.length)

/-- A byte placed below the bytes of a chunk that is not full makes the chunk one byte longer (R141). -/
theorem chunkValue_concat {sch : Scheme} {acc : Accum} {bytes : List Byte} (data : Byte)
    (hshort : bytes.length < chunkBytes sch) (hacc : acc.toNat = chunkValue sch bytes) :
    (acc ||| placeByte sch data bytes.length).toNat = chunkValue sch (bytes ++ [data]) := by
  have hwidth := (window_is_chunk sch).1
  obtain ⟨e, he⟩ : ∃ e, windowBits sch = 8 * (bytes.length + 1) + e := Nat.exists_eq_add_of_le (by omega)
  have hbelow : windowBits sch - 8 * bytes.length = 8 + e := by omega
  have hshift : windowBits sch - 8 * (bytes.length + 1) = e := by omega
  obtain ⟨hplaced, hlt⟩ := toNat_placed (v := data) (e := e) data.isLt (Nat.le_refl (8 + e))
    (hbelow ▸ (Nat.sub_le _ _).trans (windowBits_le sch))
  rw [BitVec.toNat_or, placeByte, hshift, hplaced, hacc, chunkValue, chunkValue, hbelow, Nat.mul_comm,
    ← Nat.two_pow_add_eq_or_of_lt hlt, List.length_append, List.length_singleton, hshift, bitsOfBytes_append,
    numberOfBits_append, numberOfBits_byte, bitsOfBytes_length, List.length_singleton, Nat.pow_add]
  ring

/-- The text of a chunk is NE's encoding of its bytes, alone (R143 to R146). -/
theorem chunkText_eq_refEncode {config : BitVec 5} {acc : Accum} {bytes : List Byte} (hsome : bytes ≠ [])
    (hfits : bytes.length ≤ chunkBytes (schemeOf config)) (hacc : acc.toNat = chunkValue (schemeOf config) bytes) :
    chunkText config acc bytes.length = refEncode (schemeOf config) (caseOf config) (padOf config) bytes := by
  have hlength := List.length_pos_iff.mpr hsome
  obtain ⟨hchunk, hwindow⟩ := window_is_chunk (schemeOf config)
  have hchars : dataLength (schemeOf config) bytes.length ≤ windowChars (schemeOf config) :=
    dataLength_le_window hfits
  have hlast := (mul_ceilDiv_bounds (groupBits_pos (schemeOf config)) (8 * bytes.length)).2
  have hone : ceilDiv bytes.length (chunkBytes (schemeOf config)) = 1 := by
    rw [ceilDiv, Nat.div_eq_of_lt_le] <;> omega
  refine congrArg₂ (· ++ ·) (List.map_congr_left fun i hi => ?_) ?_
  · have hi : i + 1 ≤ dataLength (schemeOf config) bytes.length := List.mem_range.mp hi
    have hmul := Nat.mul_le_mul_left (groupBits (schemeOf config)) hi
    have hmul' := Nat.mul_le_mul_left (groupBits (schemeOf config)) (hi.trans hchars)
    have hend : groupBits (schemeOf config) * (i + 1) ≤ 8 * bytes.length + groupBits (schemeOf config) :=
      hmul.trans (Nat.le_of_lt hlast)
    have hgroup := bitGroup_eq (e := windowBits (schemeOf config) - 8 * bytes.length)
      (bits := bitsOfBytes bytes) (k := groupBits (schemeOf config)) (i := i) (by simpa using hend)
      (by rw [bitsOfBytes_length]; omega)
    rw [hgroup, hacc, bitsOfBytes_length, Nat.add_sub_cancel' (by omega)]
    rfl
  · unfold encodedLength padOf
    split
    · rw [hone, Nat.mul_one]; rfl
    · simp

/-! The text of a message -/

theorem refEncode_length (sch : Scheme) (caseBit padBit : Bool) (bytes : List Byte) :
    (refEncode sch caseBit padBit bytes).length = encodedLength sch padBit bytes.length := by
  have hle := dataLength_le_encodedLength sch padBit bytes.length
  rw [refEncode, List.length_append, List.length_map, List.length_range, List.length_replicate]
  omega

theorem refEncode_nil (sch : Scheme) (caseBit padBit : Bool) : refEncode sch caseBit padBit [] = [] := by
  rw [← List.length_eq_zero_iff, refEncode_length]
  exact (encodedLength_chunks sch padBit 0).1

/-- The text of whole chunks stands before the text of the rest (R142). -/
theorem refEncode_append {sch : Scheme} {whole : List Byte} (caseBit padBit : Bool)
    (haligned : chunkBytes sch ∣ whole.length) (rest : List Byte) :
    refEncode sch caseBit padBit (whole ++ rest)
      = refEncode sch caseBit padBit whole ++ refEncode sch caseBit padBit rest := by
  obtain ⟨m, hm⟩ := haligned
  obtain ⟨hchunk, hwindow⟩ := window_is_chunk sch
  obtain ⟨hencoded, hdata⟩ := encodedLength_chunks sch padBit m
  have hbits : groupBits sch * (windowChars sch * m) = (bitsOfBytes whole).length := by
    rw [bitsOfBytes_length, hm, ← Nat.mul_assoc, ← Nat.mul_assoc, hchunk, hwindow]
  have hleft : ∀ i ∈ List.range (windowChars sch * m),
      encLUT sch caseBit (bitGroup (groupBits sch) (bitsOfBytes (whole ++ rest)) i)
        = encLUT sch caseBit (bitGroup (groupBits sch) (bitsOfBytes whole) i) := fun i hi => by
    rw [bitsOfBytes_append, bitGroup_append_left _ (hbits ▸ Nat.mul_le_mul_left _ (List.mem_range.mp hi))]
  have hright (i : Nat) : encLUT sch caseBit (bitGroup (groupBits sch) (bitsOfBytes (whole ++ rest))
      (windowChars sch * m + i)) = encLUT sch caseBit (bitGroup (groupBits sch) (bitsOfBytes rest) i) := by
    rw [bitsOfBytes_append, bitGroup_append_right _ hbits]
  simp only [refEncode, List.length_append, hm, dataLength_add_chunks, encodedLength_add_chunks, hencoded, hdata,
    List.range_add, List.map_append, List.map_map, Function.comp_def, List.map_congr_left hleft, hright,
    Nat.add_sub_add_left, Nat.sub_self, List.replicate_zero, List.append_nil, List.append_assoc]

/-! The output buffer of a message -/

/-- OBUF, OUT_COUNT and OVF after a new message has emitted `text` (20_memory.md R51, R52). -/
structure Emitted (text : List Byte) (t : State) : Prop where
  outCount : t.outCount.toNat = min text.length t.depth.toNat
  ovf : t.ovf = decide (t.depth.toNat < text.length)
  read : ∀ a, a < t.outCount.toNat → Memory.read t.obuf a = text[a]?

theorem Emitted.emitAll {text : List Byte} {s : State} (h : Emitted text s) (xs : List Byte) :
    Emitted (text ++ xs) (emitAll xs s) := by
  have hroom : s.outCount.toNat ≤ s.depth.toNat := h.outCount ▸ Nat.min_le_right _ _
  have hcount := emitAll_outCount xs hroom
  refine ⟨?_, ?_, fun a ha => ?_⟩
  · rw [hcount, h.outCount, emitAll_depth, List.length_append]
    omega
  · rw [emitAll_ovf xs hroom, h.ovf, emitAll_depth, List.length_append, h.outCount, ← Bool.decide_or]
    exact decide_eq_decide.mpr (by omega)
  · rw [emitAll_read xs hroom]
    rw [hcount] at ha
    by_cases hnew : s.outCount.toNat ≤ a
    · have hall : s.outCount.toNat = text.length := by have := h.outCount; omega
      rw [if_pos ⟨hnew, ha⟩, List.getElem?_append_right (hall ▸ hnew), hall]
    · have hold : a < s.outCount.toNat := Nat.not_le.mp hnew
      rw [if_neg (hnew ·.1), h.read a hold, List.getElem?_append_left (by have := h.outCount; omega)]

/-- The text in the output is told by OBUF, OUT_COUNT, OVF and DEPTH alone. -/
theorem Emitted.congr {text : List Byte} {s t : State} (h : Emitted text s) (hobuf : t.obuf = s.obuf)
    (hcount : t.outCount = s.outCount) (hovf : t.ovf = s.ovf) (hdepth : t.depth = s.depth) : Emitted text t :=
  ⟨by rw [hcount, hdepth, h.outCount], by rw [hovf, hdepth, h.ovf], by rw [hobuf, hcount]; exact h.read⟩

/-- A text that fits is read back whole. -/
theorem Emitted.outputOf_eq {text : List Byte} {t : State} (h : Emitted text t)
    (hfits : text.length ≤ t.depth.toNat) : t.outCount.toNat = text.length ∧ outputOf t = text.map some := by
  have hcount : t.outCount.toNat = text.length := h.outCount.trans (Nat.min_eq_left hfits)
  refine ⟨hcount, List.ext_getElem (by simp [outputOf, hcount]) fun a ha _ => ?_⟩
  have ha : a < text.length := by simpa [outputOf, hcount] using ha
  simp [outputOf, h.read a (hcount ▸ ha), ha]

/-! A message in progress -/

/-- NE's encoding of some bytes under CONFIG. -/
def textOf (config : BitVec 5) (bytes : List Byte) : List Byte :=
  refEncode (schemeOf config) (caseOf config) (padOf config) bytes

/-- An encode message that has emitted the whole chunks `whole` and holds the bytes `chunk` of one chunk in ACC. -/
structure ChunkHeld (whole chunk : List Byte) (t : State) : Prop where
  active : t.msgState = .active
  encoding : dirOf t.config = .encode
  noError : t.errReason = 0#3
  aligned : chunkBytes (schemeOf t.config) ∣ whole.length
  fits : chunk.length ≤ chunkBytes (schemeOf t.config)
  cnt : t.cnt.toNat = chunk.length
  acc : t.acc.toNat = chunkValue (schemeOf t.config) chunk
  output : Emitted (textOf t.config whole) t

/-- An empty chunk is a clear ACC and NB. -/
theorem chunkHeld_of_clear {whole : List Byte} {t : State} (active : t.msgState = .active)
    (encoding : dirOf t.config = .encode) (noError : t.errReason = 0#3)
    (aligned : chunkBytes (schemeOf t.config) ∣ whole.length) (hacc : t.acc = 0#40) (hcnt : t.cnt = 0#4)
    (output : Emitted (textOf t.config whole) t) : ChunkHeld whole [] t :=
  { active, encoding, noError, aligned, output
    fits := Nat.zero_le _
    cnt := by simp [hcnt]
    acc := by simp [hacc, chunkValue, bitsOfBytes, numberOfBits] }

/-- PUTB's byte joins a chunk that is not full (R141). -/
theorem ChunkHeld.insertByte {whole chunk : List Byte} {s : State} (h : ChunkHeld whole chunk s) (data : Byte)
    (hshort : chunk.length < chunkBytes (schemeOf s.config)) :
    ChunkHeld whole (chunk ++ [data]) (insertByte data (countInput s)) where
  active := h.active
  encoding := h.encoding
  noError := h.noError
  aligned := h.aligned
  fits := by simpa using hshort
  cnt := by
    have hfive := chunkBytes_le_five (schemeOf s.config)
    rw [insertByte_cnt, countInput_cnt, toNat_succ_cnt (by rw [h.cnt]; omega), h.cnt, List.length_append]
    rfl
  acc := by
    rw [insertByte_acc, countInput_acc, countInput_cnt, h.cnt]
    exact chunkValue_concat data hshort h.acc
  output := h.output.congr rfl rfl rfl rfl

/-- The chunk that ACC holds, emitted: its text is the next part of the message's (R142, R147). -/
theorem ChunkHeld.emitted {whole chunk : List Byte} {s : State} (h : ChunkHeld whole chunk s) (hsome : chunk ≠ []) :
    Emitted (textOf s.config (whole ++ chunk)) (emitAll (chunkText s.config s.acc chunk.length) s) := by
  rw [textOf, refEncode_append _ _ h.aligned, chunkText_eq_refEncode hsome h.fits h.acc]
  exact h.output.emitAll _

/-- An encode message that has been given `bytes`, with the configuration `config` and the depth `depth`. -/
structure EncodeInProgress (config : BitVec 5) (depth : BitVec 13) (bytes : List Byte) (t : State) : Prop where
  config_eq : t.config = config
  depth_eq : t.depth = depth
  chunk : ∃ whole pending, whole ++ pending = bytes ∧ pending.length < chunkBytes (schemeOf t.config)
    ∧ ChunkHeld whole pending t

theorem encodeInProgress_begin {config : BitVec 5} (encoding : dirOf config = .encode) (s : State) :
    EncodeInProgress config s.depth [] (respondStatus (beginMessage config s)) where
  config_eq := rfl
  depth_eq := rfl
  chunk := by
    refine ⟨[], [], rfl, chunkBytes_pos _, chunkHeld_of_clear rfl encoding rfl (Nat.dvd_zero _) rfl rfl ?_⟩
    rw [textOf, refEncode_nil]
    exact ⟨by simp, by simp, fun a ha => absurd ha (Nat.not_lt_zero a)⟩

/-- A chunk that is not full stays; a full one joins the whole chunks (R142). -/
theorem ChunkHeld.completeChunk {whole chunk : List Byte} {s : State} (h : ChunkHeld whole chunk s) :
    ∃ whole' pending, whole' ++ pending = whole ++ chunk ∧ pending.length < chunkBytes (schemeOf s.config)
      ∧ ChunkHeld whole' pending (completeChunk s) := by
  obtain ⟨hopen, hresult⟩ | ⟨hfull, hresult⟩ := completeChunk_cases s <;> rw [hresult]
  · exact ⟨whole, chunk, rfl, Nat.lt_of_le_of_ne h.fits (h.cnt ▸ hopen), h⟩
  · rw [h.cnt] at hfull
    have hpos := chunkBytes_pos (schemeOf s.config)
    have hsome : chunk ≠ [] := List.length_pos_iff.mp (hfull ▸ hpos)
    have hframe : MessageFrame s (emitChunk chunk.length s) := emitAll_messageFrame _ s
    have hemitted : Emitted (textOf s.config (whole ++ chunk)) (emitChunk chunk.length s) :=
      emitChunk_eq chunk.length s ▸ h.emitted hsome
    have haligned : chunkBytes (schemeOf s.config) ∣ (whole ++ chunk).length := by
      rw [List.length_append, hfull]
      exact Nat.dvd_add_self_right.mpr h.aligned
    rw [← hframe.config] at hemitted haligned
    rw [← hfull]
    exact ⟨whole ++ chunk, [], List.append_nil _, List.length_pos_iff.mpr hsome,
      chunkHeld_of_clear (hframe.msgState.trans h.active) ((congrArg dirOf hframe.config).trans h.encoding)
        ((emitAll_errReason s _).trans h.noError) haligned rfl rfl (hemitted.congr rfl rfl rfl rfl)⟩

/-- PUTB takes one more byte of the message (R141). -/
theorem EncodeInProgress.putByte {config : BitVec 5} {depth : BitVec 13} {bytes : List Byte} {s : State}
    (h : EncodeInProgress config depth bytes s) (data : Byte) : ∃ t, exec (.putb data) s = .next t
      ∧ EncodeInProgress config depth (bytes ++ [data]) t := by
  obtain ⟨rfl, rfl, whole, pending, rfl, hshort, hheld⟩ := h
  obtain ⟨whole', pending', hsame, hshort', hheld'⟩ := (hheld.insertByte data hshort).completeChunk
  have hframe := putByte_frame data s
  have hin : inMessage .encode s = true := (inMessage_iff _ s).mpr ⟨hheld.active, hheld.encoding⟩
  refine ⟨_, CommandResult.exec_eq (.putb hin), hframe.config, hframe.depth, whole', pending',
    by rw [hsame, List.append_assoc], ?_, ?_⟩
  · rw [respondStatus_config, hframe.config]
    exact hshort'
  · exact { hheld' with output := hheld'.output.congr rfl rfl rfl rfl }

/-- END's flush completes the text with that of the short chunk (R147). -/
theorem ChunkHeld.flushed {whole chunk : List Byte} {s : State} (h : ChunkHeld whole chunk s) :
    Emitted (textOf s.config (whole ++ chunk)) (flushedOutput s) ∧ (flushedOutput s).errReason = 0#3 := by
  rw [flushedOutput, if_pos ((dirOfBit_eq_encode_iff _).mp h.encoding)]
  split
  · next hempty =>
    have hnone : chunk = [] := List.length_eq_zero_iff.mp (h.cnt.symm.trans (by rw [hempty]; rfl))
    subst hnone
    exact ⟨(List.append_nil whole).symm ▸ h.output, h.noError⟩
  · next hsome =>
    have hsome : chunk ≠ [] := List.length_pos_iff.mp (h.cnt ▸ (cnt_pos_iff s).mpr hsome)
    rw [h.cnt]
    exact ⟨h.emitted hsome, (emitAll_errReason s _).trans h.noError⟩

/-- The final reason of an encode message is OUTPUT_OVERFLOW exactly when its text does not fit (R148, 40_control.md
R115). -/
theorem finalReason_of_emitted {text : List Byte} {t : State} (h : Emitted text t) (encoding : dirOf t.config = .encode)
    (noError : t.errReason = 0#3) : finalReason t = if text.length ≤ t.depth.toNat then 0#3 else 4#3 := by
  by_cases hfits : text.length ≤ t.depth.toNat <;> simp [finalReason, encoding, noError, h.ovf, hfits, errCode]

/-- How a message ends that emits `text` and raises no error: the whole text, or OUTPUT_OVERFLOW (40_control.md
R116). -/
def EndsWithText (depth : BitVec 13) (text : List Byte) (t : State) : Prop :=
  if text.length ≤ depth.toNat then
    t.msgState = .doneOk ∧ t.errReason = 0#3 ∧ t.outCount.toNat = text.length ∧ outputOf t = text.map some
  else t.msgState = .doneErr ∧ t.errReason = 4#3

theorem EncodeInProgress.endMsg {config : BitVec 5} {depth : BitVec 13} {bytes : List Byte} {s : State}
    (h : EncodeInProgress config depth bytes s) :
    ∃ t, exec .endMsg s = .next t ∧ EndsWithText depth (textOf config bytes) t := by
  obtain ⟨rfl, rfl, whole, pending, rfl, -, hheld⟩ := h
  obtain ⟨hemitted, hreason⟩ := hheld.flushed
  have hframe := flushedOutput_frame s
  have hfinal := finalReason_of_emitted hemitted (hframe.config ▸ hheld.encoding) hreason
  refine ⟨_, CommandResult.exec_eq (.endMsg hheld.active), ?_⟩
  rw [hframe.depth] at hfinal
  rw [closeMessage_flushMessage, hfinal, EndsWithText]
  split
  · next hfits =>
    obtain ⟨hcount, houtput⟩ := hemitted.outputOf_eq (hframe.depth ▸ hfits)
    exact ⟨rfl, rfl, hcount, houtput⟩
  · exact ⟨rfl, rfl⟩

/-! The whole message -/

theorem runCommands_cons {i : Instr} {s t : State} (h : exec i s = .next t) (rest : List Instr) :
    runCommands (i :: rest) s = runCommands rest t := by rw [runCommands, h]

/-- One PUTB per byte takes the bytes in order. -/
theorem EncodeInProgress.putBytes {config : BitVec 5} {depth : BitVec 13} (input : List Byte) {bytes : List Byte}
    {s : State} (h : EncodeInProgress config depth bytes s) (rest : List Instr) :
    ∃ t, runCommands (putBytes input ++ rest) s = runCommands rest t
      ∧ EncodeInProgress config depth (bytes ++ input) t := by
  induction input generalizing bytes s with
  | nil => exact ⟨s, rfl, (List.append_nil bytes).symm ▸ h⟩
  | cons data input ih =>
    obtain ⟨t, hput, ht⟩ := h.putByte data
    obtain ⟨u, hrun, hu⟩ := ih ht
    exact ⟨u, (runCommands_cons hput _).trans hrun, by simpa using hu⟩

/-- Every encode message runs to its END, and ends with NE's encoding of its bytes. -/
theorem encodeMessage_ends (s : State) {sch : Scheme} {caseBit padBit : Bool} (bytes : List Byte)
    (legal : legalConfig sch .encode caseBit padBit = true) :
    ∃ t, runCommands (message sch .encode caseBit padBit bytes) s = .next t
      ∧ EndsWithText s.depth (refEncode sch caseBit padBit bytes) t := by
  have hbegin := encodeInProgress_begin (dirOf_configBits sch .encode caseBit padBit) s
  obtain ⟨u, hputs, hu⟩ := hbegin.putBytes bytes [.endMsg]
  obtain ⟨t, hend, ht⟩ := hu.endMsg
  refine ⟨t, ?_, by simpa [textOf] using ht⟩
  calc runCommands (message sch .encode caseBit padBit bytes) s
      = runCommands (putBytes bytes ++ [Instr.endMsg]) (respondStatus (beginMessage _ s)) :=
        runCommands_cons (CommandResult.exec_eq (.cfg legal)) _
    _ = runCommands [Instr.endMsg] u := hputs
    _ = .next t := runCommands_cons hend []

/-- A text that fits ends the message well, with the text in OBUF. -/
theorem EndsWithText.of_fits {depth : BitVec 13} {text : List Byte} {t : State} (h : EndsWithText depth text t)
    (hfits : text.length ≤ depth.toNat) :
    t.msgState = .doneOk ∧ t.errReason = 0#3 ∧ t.outCount.toNat = text.length ∧ outputOf t = text.map some := by
  rwa [EndsWithText, if_pos hfits] at h

theorem EndsWithText.of_overflow {depth : BitVec 13} {text : List Byte} {t : State} (h : EndsWithText depth text t)
    (hover : depth.toNat < text.length) : t.msgState = .doneErr ∧ t.errReason = 4#3 := by
  rwa [EndsWithText, if_neg (Nat.not_le.mpr hover)] at h

/-- Settles O47: between two PUTBs OBUF holds the text of the whole chunks and ACC the bits of the short one, and END
adds its text. -/
theorem encodeMessageComputesReference : Obligations.EncodeMessageComputesReference := by
  intro s sch caseBit padBit bytes legal hfits
  obtain ⟨t, hrun, hend⟩ := encodeMessage_ends s bytes legal
  obtain ⟨hstate, -, -, houtput⟩ := hend.of_fits hfits
  exact ⟨t, hrun, hstate, houtput⟩

/-- Settles O51: an encode message ends with its text, whose length NE's formula gives, and PUTB keeps ERR_REASON. -/
theorem encodeFailsByOverflowOnly : Obligations.EncodeFailsByOverflowOnly := by
  refine ⟨fun s sch caseBit padBit bytes legal => ?_, fun s data => ?_⟩
  · obtain ⟨t, hrun, hend⟩ := encodeMessage_ends s bytes legal
    rw [← refEncode_length sch caseBit padBit bytes]
    refine ⟨t, hrun, fun hfits => ?_, hend.of_overflow⟩
    obtain ⟨hstate, hreason, -, -⟩ := hend.of_fits hfits
    exact ⟨hstate, hreason⟩
  · obtain ⟨t, ht⟩ := exists_commandResult s (.putb data)
    exact ⟨t, ht.exec_eq, ht.putb_keeps.1⟩

/-- Whole chunks give W characters each, and the bytes behind them their own groups (R149). -/
theorem dataLength_eq_chunks (sch : Scheme) (n : Nat) : dataLength sch n = windowChars sch * (n / chunkBytes sch)
    + (if 0 < n % chunkBytes sch then ceilDiv (8 * (n % chunkBytes sch)) (groupBits sch) else 0) := by
  have hsplit := dataLength_add_chunks sch (n / chunkBytes sch) (n % chunkBytes sch)
  rw [Nat.div_add_mod] at hsplit
  rw [hsplit]
  split
  · rfl
  · next hnone =>
    rw [Nat.eq_zero_of_not_pos hnone]
    exact congrArg _ (encodedLength_chunks sch true 0).2

/-- Settles O50: OUT_COUNT is the length of NE's text, and each clause is that length for its schemes. -/
theorem encodedLengthOfEveryMessage : Obligations.EncodedLengthOfEveryMessage := by
  intro s sch caseBit padBit bytes legal hfits n
  obtain ⟨t, hrun, hend⟩ := encodeMessage_ends s bytes legal
  obtain ⟨-, -, hcount, -⟩ := hend.of_fits (refEncode_length .. ▸ hfits)
  refine ⟨t, hrun, ?_, ?_, ?_, ?_⟩ <;> rw [hcount, refEncode_length]
  · rintro rfl
    simpa [chunkBytes, windowChars] using (encodedLength_chunks .hex padBit n).1
  · rintro rfl rfl
    rfl
  · rintro (rfl | rfl) rfl <;> rfl
  · rintro rfl
    exact ⟨dataLength_eq_chunks sch n, rfl⟩

end Sys2Proof.Laws
end

section
/-! PROOFS. The decode path, state by state: what one PUTC does, what the end of a window does, and that a latched error
hides the window (42_decode.md R171 to R182, R190). -/

namespace Sys2Proof.Laws

open Sys2Proof.Machine

/-! PUTC -/

theorem exec_putc {s : State} (active : s.msgState = .active) (decoding : s.config.getLsbD 2 = true) (ch : Byte) :
    exec (.putc ch) s = .next (answered (acceptChar ch s)) :=
  (execPutc_accepted ch ((inMessage_iff _ s).mpr ⟨active, (dirOfBit_eq_decode_iff _).mpr decoding⟩)).trans
    (congrArg _ (respondStatus_eq_answered _))

theorem acceptChar_unlatched {s : State} (unlatched : s.errReason = 0#3) (ch : Byte) :
    acceptChar ch s = consumeChar ch (countInput s) := if_pos unlatched

theorem acceptChar_latched {s : State} (latched : s.errReason ≠ 0#3) (ch : Byte) :
    acceptChar ch s = countInput s := if_neg latched

/-- An INVALID character is counted and latches INVALID_CHARACTER (R176). -/
theorem acceptChar_invalid {s : State} {ch : Byte} (unlatched : s.errReason = 0#3)
    (hinvalid : decLUT (schemeOf s.config) ch = .invalid) :
    acceptChar ch s = { countInput s with errReason := 1#3 } := by
  have hconsume : consumeChar ch (countInput s) = raise .invalidCharacter (countInput s) := by
    simp [consumeChar, hinvalid]
  rw [acceptChar_unlatched unlatched, hconsume]
  exact raise_first _ unlatched

/-- A data character after a pad is counted and latches INVALID_PADDING (R175). -/
theorem acceptChar_data_after_pad {s : State} {ch : Byte} {v : BitVec 6} (unlatched : s.errReason = 0#3)
    (hseen : s.padSeen = true) (hdata : decLUT (schemeOf s.config) ch = .data v) :
    acceptChar ch s = { countInput s with errReason := 2#3 } := by
  have hconsume : consumeChar ch (countInput s) = raise .invalidPadding (countInput s) := by
    simp [consumeChar, hdata, hseen]
  rw [acceptChar_unlatched unlatched, hconsume]
  exact raise_first _ unlatched

/-- A character that takes a position ends by counting it, in the state that has taken the character in. -/
theorem acceptChar_of_positionConsumed {s t : State} {ch : Byte} (unlatched : s.errReason = 0#3)
    (h : PositionConsumed s ch t) :
    (t.cnt.toNat ≠ windowChars (schemeOf s.config) ∧ acceptChar ch s = t)
      ∨ (t.cnt.toNat = windowChars (schemeOf s.config) ∧ acceptChar ch s = windowClose t) := by
  rw [acceptChar_unlatched unlatched]
  obtain ⟨hpad, rfl⟩ | ⟨v, hdata, hseen, rfl⟩ := h
  · have hconsume : consumeChar ch (countInput s) = advanceWindow { countInput s with padSeen := true } := by
      simp [consumeChar, hpad]
    rw [hconsume]
    exact advanceWindow_cases { countInput s with padSeen := true }
  · have hconsume : consumeChar ch (countInput s) = advanceWindow (insertGroup v (countInput s)) := by
      simp [consumeChar, hdata, hseen]
    rw [hconsume]
    exact advanceWindow_cases (insertGroup v (countInput s))

/-- Settles O30: the position is counted in the state that has taken the character in, and the last one closes the
window. -/
theorem putcConsumesPadOrDataPosition : Obligations.PutcConsumesPadOrDataPosition := by
  intro s t ch active decoding unlatched hconsumed
  rw [exec_putc active decoding]
  obtain ⟨hopen, h⟩ | ⟨hfull, h⟩ := acceptChar_of_positionConsumed unlatched hconsumed <;> rw [h]
  · exact ⟨fun _ => rfl, fun hfull => absurd hfull hopen⟩
  · exact ⟨fun hopen => absurd hfull hopen, fun _ => rfl⟩

/-- Settles O33: the class INVALID is decided before PADSEEN is looked at. -/
theorem putcInvalidCharacter : Obligations.PutcInvalidCharacter := by
  intro s ch active decoding unlatched hinvalid
  rw [exec_putc active decoding, acceptChar_invalid unlatched hinvalid]
  rfl

/-- Settles O34: after the first error PUTC stops at the count, and END clears the window last of all. -/
theorem putcAfterErrorOnlyCounts : Obligations.PutcAfterErrorOnlyCounts := by
  refine ⟨fun s ch active decoding latched => ?_, fun s active _ _ => ?_⟩
  · rw [exec_putc active decoding, acceptChar_latched latched]
    rfl
  · exact ⟨_, execEnd_accepted active, closeMessage_windowClear (flushMessage s)⟩

/-- Settles O35: the state's two NAK causes of PUTC, and R84's reserved words. -/
theorem putcOutsideDecodeMessageIsNaked : Obligations.PutcOutsideDecodeMessageIsNaked :=
  ⟨fun _ ch cause => exec_of_nakCause (i := .putc ch) cause,
    fun s _ hop hzero => runWord_of_reservedWord (.inr (.inr (.inr (.inl ⟨.inr hop, hzero⟩)))) s⟩

/-! The end of a window -/

/-- The low bits of ACC as a remainder. -/
theorem extractLsb'_zero_eq_zero_iff (acc : Accum) (len : Nat) :
    acc.extractLsb' 0 len = 0#len ↔ acc.toNat % 2 ^ len = 0 := by
  rw [← BitVec.toNat_inj, BitVec.extractLsb'_toNat, Nat.shiftRight_zero]
  simp

/-- A byte of the window as a quotient (20_memory.md R61). -/
theorem accByte_eq (sch : Scheme) (acc : Accum) (i : Nat) :
    accByte sch acc i = BitVec.ofNat 8 (acc.toNat / 2 ^ (windowBits sch - 8 * (i + 1))) := by
  rw [← Nat.shiftRight_eq_div_pow]
  rfl

/-- The validator's verdict (R179 to R182), with the bytes it lets through. -/
theorem windowBytes_verdict (s : State) :
    (WindowRejected s ∧ windowBytes (schemeOf s.config) s.acc s.bits.toNat = none)
      ∨ (¬ WindowRejected s ∧ ∃ n, windowBytes (schemeOf s.config) s.acc s.bits.toNat = some n
          ∧ windowOutput (schemeOf s.config) s.acc n = windowText s) := by
  unfold WindowRejected windowBytes windowText windowOutput
  simp only [extractLsb'_zero_eq_zero_iff, ← accByte_eq]
  split_ifs with hshort hvalid hclear
  · exact .inr ⟨by simp [hvalid, hclear], _, rfl, rfl⟩
  · exact .inl ⟨⟨hshort, .inr hclear⟩, rfl⟩
  · exact .inl ⟨⟨hshort, .inl hvalid⟩, rfl⟩
  · exact .inr ⟨fun h => hshort h.1, _, rfl, rfl⟩

theorem windowClose_rejected {s : State} (unlatched : s.errReason = 0#3) (h : WindowRejected s) :
    windowClose s = { s with errReason := 2#3 } := by
  obtain ⟨-, hnone⟩ | ⟨hpass, -⟩ := windowBytes_verdict s
  · rw [windowClose, hnone]
    exact raise_first _ unlatched
  · exact absurd h hpass

theorem windowClose_accepted {s : State} (h : ¬ WindowRejected s) :
    windowClose s = clearWindow (emitAll (windowText s) s) := by
  obtain ⟨hreject, -⟩ | ⟨-, n, hsome, htext⟩ := windowBytes_verdict s
  · exact absurd hreject h
  · rw [windowClose, hsome, ← htext]

/-- Settles O31: a window is rejected or passes the validator. -/
theorem windowCloseValidatesThenEmits : Obligations.WindowCloseValidatesThenEmits :=
  fun _ unlatched => ⟨windowClose_rejected unlatched, windowClose_accepted⟩

/-- Settles O32: PADSEEN is looked at before a data character enters ACC, and a window that passes clears it. -/
theorem putcDataAfterPadIsInvalidPadding : Obligations.PutcDataAfterPadIsInvalidPadding := by
  refine ⟨fun s ch v active decoding unlatched hseen hdata => ?_, fun s _ hpass => ?_⟩
  · rw [exec_putc active decoding, acceptChar_data_after_pad unlatched hseen hdata]
    rfl
  · rw [windowClose_accepted hpass, clearWindow_padSeen]

/-! The window after a latched error (R177) -/

/-- With a latched error the flush of a decode message does nothing before it clears the window (R185). -/
theorem flushedOutput_of_latched {s : State} (decoding : dirOf s.config = .decode) (latched : s.errReason ≠ 0#3) :
    flushedOutput s = s := by
  rw [flushedOutput, if_neg (ne_false_of_eq_true ((dirOfBit_eq_decode_iff _).mp decoding)), if_pos (.inl latched)]

/-- Every command answers two such states alike, in two such states or in one state. -/
theorem CommandResult.agreeUpToWindow {s t s' : State} {i : Instr} (hresult : CommandResult s i s')
    (h : AgreeUpToWindow s t) :
    ∃ t', CommandResult t i t' ∧ t'.response = s'.response ∧ (t' = s' ∨ AgreeUpToWindow s' t') := by
  obtain ⟨hsame, active, decoding, latched⟩ := h
  have hlatched : t.errReason ≠ 0#3 := by rwa [hsame]
  have hflushed : flushedOutput t = t := flushedOutput_of_latched (by rwa [hsame]) hlatched
  have hput (data : Byte) : acceptChar data t = countInput t := acceptChar_latched hlatched data
  generalize t.acc = acc, t.cnt = cnt, t.bits = bits, t.padSeen = padSeen at hsame
  subst hsame
  cases hresult with
  | nop => exact ⟨_, .nop, rfl, .inr ⟨rfl, active, decoding, latched⟩⟩
  | cfg legal => exact ⟨_, .cfg legal, rfl, .inl rfl⟩
  | putb encoding => simp [inMessage, decoding] at encoding
  | @putc data hin =>
    refine ⟨_, .putc hin, ?_⟩
    rw [hput, acceptChar_latched latched]
    exact ⟨rfl, .inr ⟨rfl, active, decoding, latched⟩⟩
  | endMsg =>
    refine ⟨_, .endMsg active, ?_⟩
    rw [closeMessage_flushMessage, closeMessage_flushMessage, hflushed, flushedOutput_of_latched decoding latched]
    exact ⟨rfl, .inl rfl⟩
  | rdreg value => exact ⟨_, .rdreg value, rfl, .inr ⟨rfl, active, decoding, latched⟩⟩
  | rdout readable => simp [entryReadable, active] at readable
  | srst => exact ⟨_, .srst, rfl, .inl rfl⟩
  | naked cause => exact ⟨_, .naked cause, rfl, .inr ⟨rfl, active, decoding, latched⟩⟩

/-- Settles O46: no command reads the window of a message with a latched error; PUTC and END look at the latched error
first. -/
theorem windowAfterErrorIsUnobservable : Obligations.WindowAfterErrorIsUnobservable := by
  intro s t s' i h hexec
  obtain ⟨t', ht', hresponse, hrelated⟩ := (exec_eq_next_iff.mp hexec).agreeUpToWindow h
  exact ⟨t', ht'.exec_eq, hresponse, hrelated⟩

/-! END -/

/-- END answers with the flushed output closed by its final reason (40_control.md R113). -/
theorem exec_endMsg {s : State} (active : s.msgState = .active) : exec .endMsg s
    = .next (respondStatus (closedWith (finalReason (flushedOutput s)) (flushedOutput s))) :=
  closeMessage_flushMessage s ▸ execEnd_accepted active

/-- With no position of a window or byte of a chunk taken, END's flush has nothing to do. -/
theorem flushedOutput_of_empty {s : State} (hempty : s.cnt = 0#4) : flushedOutput s = s := by
  simp [flushedOutput, hempty]

/-- Settles O52: END of a message that has just begun flushes nothing, and no reason for a failure is there. -/
theorem emptyMessageSucceeds : Obligations.EmptyMessageSucceeds := by
  intro s sch dir caseBit padBit legal
  let begun := respondStatus (beginMessage (configBits sch dir caseBit padBit) s)
  have hend := exec_endMsg (s := begun) rfl
  have hreason : finalReason begun = 0#3 := by simp [begun, finalReason]
  rw [flushedOutput_of_empty rfl, hreason] at hend
  exact ⟨_, (runCommands_cons (CommandResult.exec_eq (.cfg legal)) _).trans (runCommands_cons hend []), rfl, rfl, rfl⟩

end Sys2Proof.Laws
end

section
/-! PROOFS. NE's decode of a text, window by window: what the characters of a window contribute, and how the windows of
a text follow each other (42_decode.md R171 to R187). -/

namespace Sys2Proof.Laws

open Sys2Proof.Machine

/-! Bit sequences -/

theorem numberOfBits_eq_zero_iff (bits : List Bool) : numberOfBits bits = 0 ↔ bits.all (! ·) = true := by
  induction bits using List.reverseRecOn with
  | nil => simp [numberOfBits]
  | append_singleton bits b ih => cases b <;> simp [numberOfBits_concat, ih]

@[simp] theorem bitsOfGroup_length (k : Nat) (v : BitVec 6) : (bitsOfGroup k v).length = k := by simp [bitsOfGroup]

/-- The k bits of a value below 2^k stand for the value. -/
theorem numberOfBits_bitsOfGroup (sch : Scheme) {v : BitVec 6} (hv : v.toNat < 2 ^ groupBits sch) :
    numberOfBits (bitsOfGroup (groupBits sch) v) = v.toNat := by
  revert v
  cases sch <;> decide

/-! The characters of a window -/

section positions

variable {sch : Scheme} {ch : Byte}

theorem refPositions_pad (h : decLUT sch ch = .pad) (seen : Bool) (rest : List Byte) :
    refPositions sch seen (ch :: rest) = refPositions sch true rest := by simp [refPositions, h]

theorem refPositions_data {v : BitVec 6} (h : decLUT sch ch = .data v) (rest : List Byte) :
    refPositions sch false (ch :: rest) = (refPositions sch false rest).map (bitsOfGroup (groupBits sch) v ++ ·) := by
  simp only [refPositions, h, Bool.false_eq_true, if_false]
  cases refPositions sch false rest <;> rfl

theorem refPositions_data_after_pad {v : BitVec 6} (h : decLUT sch ch = .data v) (rest : List Byte) :
    refPositions sch true (ch :: rest) = .error .invalidPadding := by simp [refPositions, h]

theorem refPositions_invalid (h : decLUT sch ch = .invalid) (seen : Bool) (rest : List Byte) :
    refPositions sch seen (ch :: rest) = .error .invalidCharacter := by simp [refPositions, h]

/-- The characters `window`, from the start of a window on, raise no error and contribute the bits `held`; `seen` says
whether a pad is among them. -/
structure WindowRead (sch : Scheme) (window : List Byte) (seen : Bool) (held : List Bool) : Prop where
  continues : ∀ more, refPositions sch false (window ++ more) = (refPositions sch seen more).map (held ++ ·)
  length_le : held.length ≤ groupBits sch * window.length
  length_eq : seen = false → held.length = groupBits sch * window.length

variable {window : List Byte} {seen : Bool} {held : List Bool}

theorem map_nil_append {α : Type} (r : Except ErrReason (List α)) : r.map ([] ++ ·) = r := by cases r <;> rfl

theorem windowRead_nil (sch : Scheme) : WindowRead sch [] false [] where
  continues _ := (map_nil_append _).symm
  length_le := Nat.zero_le _
  length_eq _ := rfl

theorem WindowRead.positions (h : WindowRead sch window seen held) : refPositions sch false window = .ok held := by
  have hall := h.continues []
  simpa [refPositions, Except.map] using hall

/-- A pad contributes no bits (R173). -/
theorem WindowRead.pad (h : WindowRead sch window seen held) (hpad : decLUT sch ch = .pad) :
    WindowRead sch (window ++ [ch]) true held where
  continues more := by
    rw [List.append_assoc, h.continues, List.singleton_append, refPositions_pad hpad]
  length_le := by
    rw [List.length_append, Nat.mul_add]
    exact Nat.le_add_right_of_le h.length_le
  length_eq := nofun

/-- A data character before any pad contributes its k bits (R174). -/
theorem WindowRead.data {v : BitVec 6} (h : WindowRead sch window false held) (hdata : decLUT sch ch = .data v) :
    WindowRead sch (window ++ [ch]) false (held ++ bitsOfGroup (groupBits sch) v) := by
  have hlength : (held ++ bitsOfGroup (groupBits sch) v).length = groupBits sch * (window ++ [ch]).length := by
    simp [h.length_eq rfl, Nat.mul_add]
  refine ⟨fun more => ?_, hlength.le, fun _ => hlength⟩
  rw [List.append_assoc, h.continues, List.singleton_append, refPositions_data hdata]
  cases refPositions sch false more with
  | error e => rfl
  | ok bits => simp [Except.map]

/-- A character that raises an error after `window` raises it whatever comes behind it. -/
theorem WindowRead.error {e : ErrReason} (h : WindowRead sch window seen held)
    (herror : ∀ more, refPositions sch seen (ch :: more) = .error e) (more : List Byte) :
    refPositions sch false (window ++ ch :: more) = .error e := by
  rw [h.continues, herror]
  rfl

end positions

/-! The windows of a text -/

section windows

variable {sch : Scheme} {padBit : Bool}

/-- A whole window, and the text behind it (R184). -/
theorem refWindows_append {window : List Byte} (hfull : window.length = windowChars sch) (rest : List Byte) (n : Nat) :
    refWindows sch padBit (n + 1) (window ++ rest)
      = (refWindow sch padBit window).bind fun bytes => (refWindows sch padBit n rest).map (bytes ++ ·) := by
  cases window with
  | nil => exact absurd hfull (windowChars_pos sch).ne
  | cons ch tail =>
    rw [List.cons_append, refWindows, ← List.cons_append, ← hfull, List.take_left, List.drop_left]
    cases refWindow sch padBit (ch :: tail) with
    | error e => rfl
    | ok bytes => cases refWindows sch padBit n rest <;> simp [Except.bind, Except.map]

@[simp] theorem refWindows_nil (n : Nat) : refWindows sch padBit n [] = .ok [] := by cases n <;> rfl

/-- A text of at most W characters is one window. -/
theorem refWindows_single {window : List Byte} (hsome : window ≠ []) (hfits : window.length ≤ windowChars sch)
    (n : Nat) : refWindows sch padBit (n + 1) window = refWindow sch padBit window := by
  cases window with
  | nil => exact absurd rfl hsome
  | cons ch tail =>
    rw [refWindows, List.take_of_length_le hfits, List.drop_of_length_le hfits, refWindows_nil]
    cases refWindow sch padBit (ch :: tail) with
    | error e => rfl
    | ok bytes => simp

/-- An error at a position of the first window is the text's. -/
theorem refWindows_error {text : List Byte} {e : ErrReason} (hsome : text ≠ [])
    (herror : refPositions sch false (text.take (windowChars sch)) = .error e) (n : Nat) :
    refWindows sch padBit (n + 1) text = .error e := by
  cases text with
  | nil => exact absurd rfl hsome
  | cons ch tail => rw [refWindows, refWindow, herror]

/-- A window of W characters is closed (R179). -/
theorem refWindow_full {window : List Byte} {seen : Bool} {held : List Bool} (h : WindowRead sch window seen held)
    (hfull : window.length = windowChars sch) : refWindow sch padBit window = refWindowEnd sch held := by
  rw [refWindow, h.positions]
  exact if_neg fun hshort => absurd hfull hshort.1.ne

/-- A window that the input cuts short fails under Required and is closed under Ignore (R186). -/
theorem refWindow_short {window : List Byte} {seen : Bool} {held : List Bool} (h : WindowRead sch window seen held)
    (hshort : window.length < windowChars sch) : refWindow sch padBit window
      = if padBit = false then .error .invalidCharacter else refWindowEnd sch held := by
  rw [refWindow, h.positions]
  simp only [hshort, true_and]

end windows

end Sys2Proof.Laws
end

section
/-! PROOFS. The decode path of a whole message: between two PUTCs OBUF holds the bytes of the whole windows and ACC the
bits of the open one, until an error is latched (42_decode.md R170 to R187). -/

namespace Sys2Proof.Laws

open Sys2Proof.Machine

/-! A window and its bytes -/

/-- What ACC holds of a window: the bits of its data characters at the top, zeros below (20_memory.md R61, R174). -/
def windowValue (sch : Scheme) (held : List Bool) : Nat := numberOfBits held * 2 ^ (windowBits sch - held.length)

/-- A group placed below the bits of a window makes them one group longer (R174). -/
theorem windowValue_append {sch : Scheme} {acc : Accum} {held : List Bool} {v : BitVec 6} {pos : Nat}
    (hv : v.toNat < 2 ^ groupBits sch) (hopen : pos < windowChars sch) (hheld : held.length = groupBits sch * pos)
    (hacc : acc.toNat = windowValue sch held) :
    (acc ||| placeGroup sch v pos).toNat = windowValue sch (held ++ bitsOfGroup (groupBits sch) v) := by
  have hfits : groupBits sch * (pos + 1) ≤ windowBits sch :=
    (window_is_chunk sch).2 ▸ Nat.mul_le_mul_left _ hopen
  obtain ⟨e, he⟩ := Nat.exists_eq_add_of_le hfits
  have hgroups := Nat.mul_add_one (groupBits sch) pos
  have hbelow : windowBits sch - held.length = groupBits sch + e := by omega
  have hshift : windowBits sch - groupBits sch * (pos + 1) = e := by omega
  obtain ⟨hplaced, hlt⟩ := toNat_placed (e := e) hv (Nat.le_refl _)
    (hbelow ▸ (Nat.sub_le _ _).trans (windowBits_le sch))
  rw [BitVec.toNat_or, placeGroup, hshift, hplaced, hacc, windowValue, windowValue, hbelow, Nat.mul_comm,
    ← Nat.two_pow_add_eq_or_of_lt hlt, List.length_append, bitsOfGroup_length, hheld, ← hgroups, hshift,
    numberOfBits_append, numberOfBits_bitsOfGroup sch hv, bitsOfGroup_length, Nat.pow_add]
  ring

/-- The unused bits of a window are zero in ACC when they are zero in the window's bits (R182). -/
theorem windowValue_clear_iff {sch : Scheme} {held : List Bool} {n : Nat} (hn : n ≤ held.length)
    (hfits : held.length ≤ windowBits sch) :
    windowValue sch held % 2 ^ (windowBits sch - n) = 0 ↔ (held.drop n).all (! ·) = true := by
  have hwidth : windowBits sch - n = (held.drop n).length + (windowBits sch - held.length) := by
    rw [List.length_drop]
    omega
  have hsplit : numberOfBits held
      = numberOfBits (held.take n) * 2 ^ (held.drop n).length + numberOfBits (held.drop n) := by
    rw [← numberOfBits_append, List.take_append_drop]
  rw [windowValue, hwidth, Nat.pow_add, Nat.mul_mod_mul_right, hsplit, Nat.mul_add_mod',
    Nat.mod_eq_of_lt (numberOfBits_lt _), Nat.mul_eq_zero, or_iff_left (Nat.two_pow_pos _).ne',
    numberOfBits_eq_zero_iff]

/-- A byte of the window is eight of its bits (R183). -/
theorem windowValue_byte {sch : Scheme} {held : List Bool} {i : Nat} (hi : 8 * (i + 1) ≤ held.length)
    (hfits : held.length ≤ windowBits sch) :
    BitVec.ofNat 8 (windowValue sch held / 2 ^ (windowBits sch - 8 * (i + 1)))
      = BitVec.ofNat 8 (numberOfBits ((held.drop (8 * i)).take 8)) := by
  have hwidth : windowBits sch - 8 * (i + 1) = held.length - (8 * i + 8) + (windowBits sch - held.length) := by omega
  rw [numberOfBits_slice (Nat.mul_succ 8 i ▸ hi), windowValue, hwidth, Nat.pow_add,
    Nat.mul_div_mul_right _ _ (Nat.two_pow_pos _)]
  exact BitVec.eq_of_toNat_eq (by simp)

/-- A decode message with no latched error that has emitted the bytes `out` of whole windows, and whose open window
holds the characters `window` with the bits `held`. -/
structure WindowHeld (out window : List Byte) (held : List Bool) (s : State) : Prop where
  active : s.msgState = .active
  decoding : dirOf s.config = .decode
  unlatched : s.errReason = 0#3
  read : WindowRead (schemeOf s.config) window s.padSeen held
  inWindow : window.length ≤ windowChars (schemeOf s.config)
  cnt : s.cnt.toNat = window.length
  bits : s.bits.toNat = held.length
  acc : s.acc.toNat = windowValue (schemeOf s.config) held
  output : Emitted out s

section window

variable {out window : List Byte} {held : List Bool} {s : State}

theorem WindowHeld.held_le (h : WindowHeld out window held s) : held.length ≤ windowBits (schemeOf s.config) :=
  (window_is_chunk (schemeOf s.config)).2 ▸ h.read.length_le.trans (Nat.mul_le_mul_left _ h.inWindow)

/-- The validator and the window's bytes are NE's (R179 to R183). -/
theorem WindowHeld.windowEnd (h : WindowHeld out window held s) :
    (WindowRejected s ∧ refWindowEnd (schemeOf s.config) held = .error .invalidPadding)
      ∨ (¬ WindowRejected s ∧ refWindowEnd (schemeOf s.config) held = .ok (windowText s)) := by
  have hfits := h.held_le
  have hchunk := (window_is_chunk (schemeOf s.config)).1
  have htext : windowText s = bytesOfBits held := by
    have hcount : (if s.bits.toNat < windowBits (schemeOf s.config) then s.bits.toNat / 8
        else chunkBytes (schemeOf s.config)) = held.length / 8 := by
      rw [h.bits]
      split <;> omega
    rw [windowText, hcount, bytesOfBits, h.acc]
    refine List.map_congr_left fun i hi => windowValue_byte ?_ hfits
    have hi := List.mem_range.mp hi
    omega
  have hclear := windowValue_clear_iff (Nat.mul_div_le held.length 8) hfits
  rw [htext, WindowRejected, refWindowEnd, h.bits, h.acc, Ne, hclear]
  split_ifs with hshort hvalid
  · exact .inr ⟨fun ⟨_, hreject⟩ => hreject.elim (· hvalid.1) (· hvalid.2), rfl⟩
  · exact .inl ⟨⟨hshort, not_and_or.mp hvalid⟩, rfl⟩
  · exact .inr ⟨fun hreject => hshort hreject.1, rfl⟩

/-- The response is no part of a message in progress. -/
theorem WindowHeld.responded (h : WindowHeld out window held s) :
    WindowHeld out window held (respondStatus s) := { h with output := h.output.congr rfl rfl rfl rfl }

/-- With its bytes emitted and its state cleared, a window makes room for the next one (R179). -/
theorem WindowHeld.emitted (h : WindowHeld out window held s) (xs : List Byte) :
    WindowHeld (out ++ xs) [] [] (clearWindow (emitAll xs s)) where
  active := by simpa using h.active
  decoding := by simpa using h.decoding
  unlatched := by simpa using h.unlatched
  read := windowRead_nil _
  inWindow := Nat.zero_le _
  cnt := rfl
  bits := rfl
  acc := by simp [windowValue, numberOfBits]
  output := (h.output.emitAll xs).congr rfl rfl rfl rfl

/-- One more character takes a position, or raises NE's error of that position (R171 to R176). -/
theorem WindowHeld.char (h : WindowHeld out window held s) (hopen : window.length < windowChars (schemeOf s.config))
    (ch : Byte) :
    (∃ t held', PositionConsumed s ch t ∧ t.config = s.config ∧ WindowHeld out (window ++ [ch]) held' t)
      ∨ ∃ e, (acceptChar ch s).errReason = errCode e ∧ e ≠ .ok
          ∧ ∀ more, refPositions (schemeOf s.config) false (window ++ ch :: more) = .error e := by
  have hcnt : (s.cnt + 1#4).toNat = (window ++ [ch]).length := by
    rw [toNat_succ_cnt_of_open (h.cnt ▸ hopen), h.cnt, List.length_append]
    rfl
  have hlength : (window ++ [ch]).length ≤ windowChars (schemeOf s.config) := by simpa using hopen
  have houtput := h.output
  cases hclass : decLUT (schemeOf s.config) ch with
  | pad =>
    exact .inl ⟨_, held, .inl ⟨hclass, rfl⟩, rfl,
      { h with read := h.read.pad hclass, cnt := hcnt, inWindow := hlength, output := houtput.congr rfl rfl rfl rfl }⟩
  | invalid =>
    refine .inr ⟨.invalidCharacter, ?_, nofun, h.read.error (refPositions_invalid hclass _)⟩
    rw [acceptChar_invalid h.unlatched hclass]
    rfl
  | data v =>
    cases hseen : s.padSeen with
    | true =>
      refine .inr ⟨.invalidPadding, ?_, nofun, (hseen ▸ h.read).error (refPositions_data_after_pad hclass)⟩
      rw [acceptChar_data_after_pad h.unlatched hseen hclass]
      rfl
    | false =>
      have hread := (hseen ▸ h.read).data hclass
      have hheld := (hseen ▸ h.read).length_eq rfl
      refine .inl ⟨_, _, .inr ⟨v, hclass, hseen, rfl⟩, rfl,
        { h with
          read := hseen ▸ hread, cnt := hcnt, inWindow := hlength
          bits := ?_, acc := ?_, output := houtput.congr rfl rfl rfl rfl }⟩
      · have hfits : (held ++ bitsOfGroup (groupBits (schemeOf s.config)) v).length ≤ 40 :=
          (hread.length_le.trans (Nat.mul_le_mul_left _ hlength)).trans
            ((window_is_chunk _).2 ▸ windowBits_le _)
        rw [List.length_append, bitsOfGroup_length] at hfits ⊢
        rw [BitVec.toNat_add, BitVec.toNat_ofNat, h.bits]
        omega
      · rw [h.cnt]
        exact windowValue_append (decLUT_data_lt hclass) hopen hheld h.acc

/-- The window that reaches W positions is rejected as NE rejects it, or the message goes on behind its bytes (R178,
R179). -/
theorem WindowHeld.closed (h : WindowHeld out window held s) :
    ((windowClose s).errReason = errCode .invalidPadding
        ∧ refWindowEnd (schemeOf s.config) held = .error .invalidPadding)
      ∨ ∃ xs, refWindowEnd (schemeOf s.config) held = .ok xs ∧ WindowHeld (out ++ xs) [] [] (windowClose s) := by
  obtain ⟨hreject, hend⟩ | ⟨hpass, hend⟩ := h.windowEnd
  · rw [windowClose_rejected h.unlatched hreject]
    exact .inl ⟨rfl, hend⟩
  · rw [windowClose_accepted hpass]
    exact .inr ⟨_, hend, h.emitted _⟩

/-- What one more character does to a message with no latched error: it joins the open window, fills it, or raises an
error that NE's decode ends with, whatever comes behind the character. -/
theorem WindowHeld.accept (h : WindowHeld out window held s) (hopen : window.length < windowChars (schemeOf s.config))
    (ch : Byte) :
    (∃ held', (window ++ [ch]).length < windowChars (schemeOf s.config)
        ∧ WindowHeld out (window ++ [ch]) held' (acceptChar ch s))
      ∨ (∃ xs, (window ++ [ch]).length = windowChars (schemeOf s.config)
        ∧ refWindow (schemeOf s.config) (padOf s.config) (window ++ [ch]) = .ok xs
        ∧ WindowHeld (out ++ xs) [] [] (acceptChar ch s))
      ∨ ∃ e, e ≠ .ok ∧ (acceptChar ch s).errReason = errCode e ∧ ∀ n more,
        refWindows (schemeOf s.config) (padOf s.config) (n + 1) (window ++ [ch] ++ more) = .error e := by
  obtain ⟨t, held', hconsumed, hconfig, ht⟩ | ⟨e, hreason, he, herror⟩ := h.char hopen ch
  · have hposition := acceptChar_of_positionConsumed h.unlatched hconsumed
    have hwindow := ht.inWindow
    have hread := ht.read
    have hclosed := ht.closed
    rw [ht.cnt] at hposition
    rw [hconfig] at hwindow hread hclosed
    obtain ⟨hmore, haccept⟩ | ⟨hfull, haccept⟩ := hposition <;> rw [haccept]
    · exact .inl ⟨held', Nat.lt_of_le_of_ne hwindow hmore, ht⟩
    · have hend := refWindow_full (padBit := padOf s.config) hread hfull
      obtain ⟨herror, hreject⟩ | ⟨xs, hpass, hnext⟩ := hclosed
      · refine .inr (.inr ⟨.invalidPadding, nofun, herror, fun n more => ?_⟩)
        rw [refWindows_append hfull, hend, hreject]
        rfl
      · exact .inr (.inl ⟨xs, hfull, hend.trans hpass, hnext⟩)
  · refine .inr (.inr ⟨e, he, hreason, fun n more => refWindows_error (by simp) ?_ n⟩)
    have hlength : (window ++ [ch]).length ≤ windowChars (schemeOf s.config) := by simpa using hopen
    rw [List.take_append, List.take_of_length_le hlength, List.append_assoc]
    exact herror _

end window

/-! The characters of a message -/

/-- A decode message after one PUTC per character of `text`. -/
def acceptChars (text : List Byte) (s : State) : State := text.foldl (fun t ch => respondStatus (acceptChar ch t)) s

@[simp] theorem acceptChars_nil (s : State) : acceptChars [] s = s := rfl

@[simp] theorem acceptChars_cons (ch : Byte) (text : List Byte) (s : State) :
    acceptChars (ch :: text) s = acceptChars text (respondStatus (acceptChar ch s)) := rfl

/-- The characters are counted; what else the frame names stays. -/
theorem acceptChars_frame (text : List Byte) (s : State) :
    MessageFrame { s with inCount := s.inCount + BitVec.ofNat 31 text.length } (acceptChars text s) := by
  induction text generalizing s with
  | nil => exact ⟨rfl, rfl, rfl, (BitVec.add_zero _).symm, rfl, rfl, rfl⟩
  | cons ch text ih =>
    have hone := acceptChar_frame ch s
    have hrest := ih (respondStatus (acceptChar ch s))
    refine ⟨hrest.config.trans hone.config, hrest.msgState.trans hone.msgState, hrest.ill.trans hone.ill, ?_,
      hrest.depth.trans hone.depth, hrest.hostProgram.trans hone.hostProgram, hrest.hostPos.trans hone.hostPos⟩
    rw [acceptChars_cons, hrest.inCount]
    dsimp only
    rw [respondStatus_inCount, hone.inCount, countInput_inCount, BitVec.add_assoc, ← BitVec.ofNat_add, Nat.add_comm]
    rfl

/-- A latched error stays latched (R177). -/
theorem acceptChars_latched (text : List Byte) {s : State} (latched : s.errReason ≠ 0#3) :
    (acceptChars text s).errReason = s.errReason := by
  induction text generalizing s with
  | nil => rfl
  | cons ch text ih =>
    rw [acceptChars_cons, acceptChar_latched latched]
    exact ih latched

theorem runCommands_putChars (text : List Byte) {s : State} (h : inMessage .decode s = true) (rest : List Instr) :
    runCommands (putChars text ++ rest) s = runCommands rest (acceptChars text s) := by
  induction text generalizing s with
  | nil => rfl
  | cons ch text ih =>
    have hframe := acceptChar_frame ch s
    have hin : inMessage .decode (respondStatus (acceptChar ch s)) = true := by
      rw [inMessage, respondStatus_msgState, respondStatus_config, hframe.msgState, hframe.config]
      exact h
    exact (runCommands_cons (CommandResult.exec_eq (.putc h)) _).trans (ih hin)

/-! The end of the characters -/

/-- The output and the latched error that a decode result stands for, before END turns to the final reason. -/
def DecodedTo (f : State) : Except ErrReason (List Byte) → Prop
  | .ok bytes => f.errReason = 0#3 ∧ Emitted bytes f
  | .error e => f.errReason = errCode e ∧ e ≠ .ok

/-- Bytes before a decode result, in two parts. -/
theorem map_append_map (xs ys : List Byte) (r : Except ErrReason (List Byte)) :
    (r.map (ys ++ ·)).map (xs ++ ·) = r.map (xs ++ ys ++ ·) := by
  cases r <;> simp [Except.map]

theorem errCode_ne_zero {e : ErrReason} (h : e ≠ .ok) : errCode e ≠ 0#3 := by
  cases e with
  | ok => exact absurd rfl h
  | invalidCharacter | invalidPadding | oddLength | outputOverflow => decide

/-- A latched error is all that comes of a message, whatever its remaining characters are (R177). -/
theorem decodedTo_of_latched {e : ErrReason} {s : State} (decoding : dirOf s.config = .decode) (he : e ≠ .ok)
    (herror : s.errReason = errCode e) (text : List Byte) :
    DecodedTo (flushedOutput (acceptChars text s)) (.error e) := by
  have latched : s.errReason ≠ 0#3 := herror ▸ errCode_ne_zero he
  have hreason := acceptChars_latched text latched
  rw [flushedOutput_of_latched ((congrArg dirOf (acceptChars_frame text s).config).trans decoding) (hreason ▸ latched)]
  exact ⟨hreason.trans herror, he⟩

/-- The flush closes a short window under Ignore, and fails under Required (R186). -/
theorem WindowHeld.flushed {out window : List Byte} {held : List Bool} {s : State} (h : WindowHeld out window held s)
    (hsome : window ≠ []) (hopen : window.length < windowChars (schemeOf s.config)) (hex : schemeOf s.config ≠ .hex) :
    DecodedTo (flushedOutput s) ((refWindow (schemeOf s.config) (padOf s.config) window).map (out ++ ·)) := by
  have hcnt : s.cnt ≠ 0#4 := (cnt_pos_iff s).mp (h.cnt ▸ List.length_pos_iff.mpr hsome)
  rw [flushedOutput, if_neg (ne_false_of_eq_true ((dirOfBit_eq_decode_iff _).mp h.decoding)),
    if_neg (by simp [h.unlatched, hcnt, hex]), refWindow_short h.read hopen]
  unfold padOf
  split
  · exact ⟨rfl, nofun⟩
  · obtain ⟨herror, hend⟩ | ⟨xs, hend, hnext⟩ := h.closed <;> rw [hend]
    · exact ⟨herror, nofun⟩
    · exact ⟨hnext.unlatched, hnext.output⟩

/-- The characters of a message, and then the flush, do what NE's windows do from the open window on. HEX is left out
when it stops inside a window: R187 is END's (40_control.md R115). -/
theorem WindowHeld.decoded (text : List Byte) {config : BitVec 5} {out window : List Byte} {held : List Bool}
    {s : State} {n : Nat} (h : WindowHeld out window held s) (hconfig : s.config = config)
    (hopen : window.length < windowChars (schemeOf config)) (hfuel : (window ++ text).length ≤ n)
    (heven : schemeOf config = .hex → (window ++ text).length % 2 = 0) :
    DecodedTo (flushedOutput (acceptChars text s))
      ((refWindows (schemeOf config) (padOf config) n (window ++ text)).map (out ++ ·)) := by
  induction text generalizing out window held s n with
  | nil =>
    rw [List.append_nil] at hfuel heven ⊢
    by_cases hempty : window = []
    · have hcnt : s.cnt = 0#4 := BitVec.eq_of_toNat_eq (by rw [h.cnt, hempty]; rfl)
      rw [acceptChars_nil, flushedOutput_of_empty hcnt, hempty, refWindows_nil]
      exact ⟨h.unlatched, by simpa using h.output⟩
    · have hpos := List.length_pos_iff.mpr hempty
      obtain ⟨m, rfl⟩ := Nat.exists_eq_add_one_of_ne_zero (by omega : n ≠ 0)
      subst hconfig
      rw [refWindows_single hempty hopen.le]
      refine h.flushed hempty hopen fun hex => ?_
      have hparity := heven hex
      rw [hex] at hopen
      simp only [windowChars] at hopen
      omega
  | cons ch text ih =>
    rw [List.append_cons] at hfuel heven ⊢
    rw [acceptChars_cons]
    have hframe := (acceptChar_frame ch s).config
    obtain ⟨m, rfl⟩ := Nat.exists_eq_add_one_of_ne_zero (by simp at hfuel; omega : n ≠ 0)
    subst hconfig
    obtain ⟨held', hmore, hnext⟩ | ⟨xs, hfull, hwindow, hnext⟩ | ⟨e, he, hreason, herror⟩ := h.accept hopen ch
    · exact ih hnext.responded hframe hmore hfuel heven
    · rw [refWindows_append hfull, hwindow, Except.bind, map_append_map]
      refine ih (window := []) hnext.responded hframe (windowChars_pos _) (by simp at hfuel ⊢; omega) fun hex => ?_
      have hparity := heven hex
      rw [List.length_append, hfull, hex] at hparity
      simpa [windowChars] using hparity
    · rw [herror]
      exact decodedTo_of_latched (s := respondStatus (acceptChar ch s)) ((congrArg dirOf hframe).trans h.decoding) he
        hreason text

/-! The whole message -/

/-- A new decode message has an empty window and no output. -/
theorem windowHeld_begin {config : BitVec 5} (decoding : dirOf config = .decode) (s : State) :
    WindowHeld [] [] [] (respondStatus (beginMessage config s)) where
  active := rfl
  decoding := decoding
  unlatched := rfl
  read := windowRead_nil _
  inWindow := Nat.zero_le _
  cnt := rfl
  bits := rfl
  acc := by simp [windowValue, numberOfBits]
  output := ⟨by simp, by simp, fun a ha => absurd ha (Nat.not_lt_zero a)⟩

/-- How a decode message ends whose result is `r`: the bytes, OUTPUT_OVERFLOW or the error (40_control.md R116). -/
def EndsWithResult (depth : BitVec 13) (t : State) : Except ErrReason (List Byte) → Prop
  | .ok bytes =>
    if bytes.length ≤ depth.toNat then t.msgState = .doneOk ∧ outputOf t = bytes.map some
    else t.msgState = .doneErr ∧ t.errReason = 4#3 ∧ t.outCount = 0#13
  | .error e => t.msgState = .doneErr ∧ t.errReason = errCode e ∧ t.outCount = 0#13

/-- The response is no part of how a message ends. -/
theorem EndsWithResult.respondStatus {depth : BitVec 13} {t : State} {r : Except ErrReason (List Byte)}
    (h : EndsWithResult depth t r) : EndsWithResult depth (respondStatus t) r := by
  cases r <;> exact h

/-- Every reason but OK closes a message with nothing readable. -/
theorem closedWith_failed {r : BitVec 3} (h : r ≠ 0#3) (f : State) :
    (closedWith r f).msgState = .doneErr ∧ (closedWith r f).errReason = r ∧ (closedWith r f).outCount = 0#13 :=
  ⟨if_neg h, rfl, if_neg h⟩

/-- Without an odd length, the final reason is the latched error or the overflow (40_control.md R115). -/
theorem DecodedTo.closed {f : State} {r : Except ErrReason (List Byte)} (h : DecodedTo f r)
    (heven : ¬ (schemeOf f.config = .hex ∧ f.inCount.getLsbD 0 = true)) :
    EndsWithResult f.depth (closedWith (finalReason f) f) r := by
  have hreason : finalReason f = if f.errReason = 0#3 ∧ f.ovf = true then 4#3 else f.errReason := by
    rw [finalReason, if_neg fun hodd => heven hodd.2]
    rfl
  rw [hreason]
  cases r with
  | error e =>
    obtain ⟨herror, he⟩ := h
    rw [herror, if_neg fun hnone => errCode_ne_zero he hnone.1]
    exact closedWith_failed (errCode_ne_zero he) f
  | ok bytes =>
    obtain ⟨hnone, houtput⟩ := h
    rw [EndsWithResult, hnone, houtput.ovf]
    split
    · next hfits =>
      rw [if_neg (by simpa using hfits)]
      exact ⟨rfl, (houtput.outputOf_eq hfits).2⟩
    · next hover =>
      rw [if_pos (by simpa using hover)]
      exact closedWith_failed (by decide) f

/-- An odd number of HEX characters is the final reason, whatever the flush left (R187, 40_control.md R115). -/
theorem closed_of_odd {f : State} (decoding : dirOf f.config = .decode) (hex : schemeOf f.config = .hex)
    (hodd : f.inCount.getLsbD 0 = true) :
    EndsWithResult f.depth (closedWith (finalReason f) f) (.error .oddLength) := by
  have hreason : finalReason f = errCode .oddLength := if_pos ⟨decoding, hex, hodd⟩
  rw [hreason]
  exact closedWith_failed (by decide) f

/-- The parity of IN_COUNT is that of the text, however often the count wraps (10_state.md R30). -/
theorem parity_ofNat (n : Nat) : (0#31 + BitVec.ofNat 31 n).getLsbD 0 = true ↔ n % 2 = 1 := by
  rw [BitVec.zero_add, BitVec.getLsbD_ofNat]
  simp

/-- The characters of a message, its flush and its close, from CFG on, are NE's decode of the text. -/
theorem acceptChars_closed {config : BitVec 5} (decoding : dirOf config = .decode) (s : State) (text : List Byte) :
    let f := flushedOutput (acceptChars text (respondStatus (beginMessage config s)))
    EndsWithResult s.depth (closedWith (finalReason f) f) (refDecode (schemeOf config) (padOf config) text) := by
  intro f
  have hframe : MessageFrame _ f := (acceptChars_frame text _).trans (flushedOutput_frame _)
  have hconfig : f.config = config := hframe.config
  have hdepth : f.depth = s.depth := hframe.depth
  have hparity : f.inCount.getLsbD 0 = true ↔ text.length % 2 = 1 := hframe.inCount ▸ parity_ofNat text.length
  rw [← hdepth, refDecode]
  split
  · next hodd => exact closed_of_odd (hconfig ▸ decoding) (hconfig ▸ hodd.1) (hparity.mpr hodd.2)
  · next heven =>
    have hdecoded := (windowHeld_begin decoding s).decoded text rfl (windowChars_pos _) (Nat.le_refl text.length)
      fun hex => Nat.mod_two_ne_one.mp fun hodd => heven ⟨hex, hodd⟩
    rw [List.nil_append, map_nil_append] at hdecoded
    exact hdecoded.closed (by rwa [hconfig, hparity])

/-- Every decode message runs to its END, and ends with NE's decode of its text. -/
theorem decodeMessage_ends (s : State) {sch : Scheme} {padBit : Bool} (text : List Byte)
    (legal : legalConfig sch .decode false padBit = true) :
    ∃ t, runCommands (message sch .decode false padBit text) s = .next t
      ∧ EndsWithResult s.depth t (refDecode sch padBit text) := by
  let begun := respondStatus (beginMessage (configBits sch .decode false padBit) s)
  have decoding : dirOf begun.config = .decode := dirOf_configBits sch .decode false padBit
  have hin : inMessage .decode begun = true := (inMessage_iff _ _).mpr ⟨rfl, decoding⟩
  have hactive : (acceptChars text begun).msgState = .active := (acceptChars_frame text begun).msgState
  have hcfg : exec (.cfg sch .decode false padBit) s = .next begun := CommandResult.exec_eq (.cfg legal)
  have hmessage : runCommands (message sch .decode false padBit text) s
      = runCommands (putChars text ++ [Instr.endMsg]) begun := runCommands_cons hcfg _
  have hchars := runCommands_putChars text hin [Instr.endMsg]
  have hend := runCommands_cons (exec_endMsg hactive) []
  have hclosed := acceptChars_closed decoding s text
  rw [respondStatus_config, beginMessage_config, schemeOf_configBits, padOf_configBits] at hclosed
  exact ⟨_, hmessage.trans (hchars.trans hend), hclosed.respondStatus⟩

/-- Settles O48: between two PUTCs OBUF holds the bytes of NE's whole windows and ACC the bits of the open one, or NE's
error is latched, and END turns this into NE's result. -/
theorem decodeMessageComputesReference : Obligations.DecodeMessageComputesReference := by
  intro s sch padBit text legal
  obtain ⟨t, hrun, hend⟩ := decodeMessage_ends s text legal
  refine ⟨t, hrun, ?_⟩
  cases hresult : refDecode sch padBit text <;> rw [hresult] at hend <;> exact hend

end Sys2Proof.Laws
end

section
/-! PROOFS. NE's decode of NE's encoding, chunk by chunk, and the round trip of a message (42_decode.md R189). -/

namespace Sys2Proof.Laws

open Sys2Proof.Machine

/-! The bits of a group -/

/-- Bit sequences of one length stand for different numbers. -/
theorem numberOfBits_injective {xs ys : List Bool} (hlength : xs.length = ys.length)
    (h : numberOfBits xs = numberOfBits ys) : xs = ys := by
  induction xs using List.reverseRecOn generalizing ys with
  | nil => exact (List.length_eq_zero_iff.mp hlength.symm).symm
  | append_singleton xs a ih =>
    cases ys using List.reverseRecOn with
    | nil => simp at hlength
    | append_singleton ys b =>
      rw [numberOfBits_concat, numberOfBits_concat] at h
      have hlast : a = b := by cases a <;> cases b <;> simp at h ⊢ <;> omega
      subst hlast
      rw [ih (by simpa using hlength) (by omega)]

/-- A value of k bits fits in DecLUT's six. -/
theorem toNat_ofNat_of_lt {sch : Scheme} {v : Nat} (hv : v < 2 ^ groupBits sch) : (BitVec.ofNat 6 v).toNat = v := by
  have hsix : 2 ^ groupBits sch ≤ 2 ^ 6 := by cases sch <;> decide
  exact (BitVec.toNat_ofNat v 6).trans (Nat.mod_eq_of_lt (hv.trans_le hsix))

/-- A group's value has the group's bits. -/
theorem bitsOfGroup_numberOfBits {sch : Scheme} {bits : List Bool} (h : bits.length = groupBits sch) :
    bitsOfGroup (groupBits sch) (BitVec.ofNat 6 (numberOfBits bits)) = bits := by
  have hlt := h ▸ numberOfBits_lt bits
  have hvalue := toNat_ofNat_of_lt hlt
  refine numberOfBits_injective (by rw [bitsOfGroup_length, h]) ?_
  rw [numberOfBits_bitsOfGroup sch (by rwa [hvalue]), hvalue]

/-- The groups of a bit sequence, one after the other, are its bits and the zeros that complete the last group
(R145). -/
theorem flatMap_bitGroup {sch : Scheme} {bits : List Bool} {m : Nat}
    (h : groupBits sch * m ≤ bits.length + groupBits sch) :
    (List.range m).flatMap (fun i => bitsOfGroup (groupBits sch) (BitVec.ofNat 6 (bitGroup (groupBits sch) bits i)))
      = (bits ++ List.replicate (groupBits sch) false).take (groupBits sch * m) := by
  induction m with
  | zero => rfl
  | succ m ih =>
    rw [Nat.mul_succ] at h
    rw [List.range_succ, List.flatMap_append, ih (by omega), List.flatMap_singleton, Nat.mul_succ,
      List.take_add, bitGroup, bitsOfGroup_numberOfBits (by simp; omega)]

/-! The characters of a chunk -/

/-- The characters of some values of k bits contribute those bits, in either case. -/
theorem WindowRead.values {sch : Scheme} (caseBit : Bool) {vs : List Nat} (hvs : ∀ v ∈ vs, v < 2 ^ groupBits sch) :
    WindowRead sch (vs.map (encLUT sch caseBit)) false
      (vs.flatMap fun v => bitsOfGroup (groupBits sch) (BitVec.ofNat 6 v)) := by
  induction vs using List.reverseRecOn with
  | nil => exact windowRead_nil sch
  | append_singleton vs v ih =>
    have hv : v < 2 ^ groupBits sch := hvs v (by simp)
    have hvalue := toNat_ofNat_of_lt hv
    have hchar : decLUT sch (encLUT sch caseBit v) = .data (BitVec.ofNat 6 v) := by
      have hinverse := decLUT_encLUT sch caseBit (v := BitVec.ofNat 6 v) (hvalue.symm ▸ hv)
      rwa [hvalue] at hinverse
    rw [List.map_append, List.flatMap_append, List.flatMap_singleton]
    exact (ih fun w hw => hvs w (List.mem_append_left _ hw)).data hchar

/-- Pads contribute nothing (R173). -/
theorem WindowRead.pads {sch : Scheme} (haspad : hasPad sch = true) {window : List Byte} {seen : Bool}
    {held : List Bool} (h : WindowRead sch window seen held) (n : Nat) :
    ∃ seen', WindowRead sch (window ++ List.replicate n padChar) seen' held := by
  induction n with
  | zero => exact ⟨seen, by simpa using h⟩
  | succ n ih =>
    obtain ⟨_, hread⟩ := ih
    have hpad : decLUT sch padChar = .pad :=
      (decLUT_eq_pad_iff sch padChar).mpr ⟨fun hex => by simp [hex, hasPad] at haspad, rfl⟩
    rw [List.replicate_succ', ← List.append_assoc]
    exact ⟨true, hread.pad hpad⟩

theorem bitGroup_lt (k : Nat) (bits : List Bool) (i : Nat) : bitGroup k bits i < 2 ^ k :=
  (numberOfBits_lt _).trans_le (Nat.pow_le_pow_right (by decide) (List.length_take_le _ _))

/-- The bits of a text's characters: its bytes' bits, and the zeros of R145. -/
def textBits (sch : Scheme) (bytes : List Byte) : List Bool :=
  bitsOfBytes bytes ++ List.replicate (groupBits sch * dataLength sch bytes.length - 8 * bytes.length) false

theorem textBits_length (sch : Scheme) (bytes : List Byte) :
    (textBits sch bytes).length = groupBits sch * dataLength sch bytes.length := by
  have hcover := (mul_ceilDiv_bounds (groupBits_pos sch) (8 * bytes.length)).1
  rw [textBits, List.length_append, bitsOfBytes_length, List.length_replicate, dataLength]
  omega

/-- The groups of a text hold its bits: its bytes' bits, and zeros in what they leave of the last group. -/
theorem take_groups_eq_textBits (sch : Scheme) (bytes : List Byte) :
    (bitsOfBytes bytes ++ List.replicate (groupBits sch) false).take (groupBits sch * dataLength sch bytes.length)
      = textBits sch bytes := by
  obtain ⟨hcover, hlast⟩ : 8 * bytes.length ≤ groupBits sch * dataLength sch bytes.length ∧ _ :=
    mul_ceilDiv_bounds (groupBits_pos sch) (8 * bytes.length)
  rw [List.take_append, List.take_of_length_le (by rwa [bitsOfBytes_length]), List.take_replicate,
    bitsOfBytes_length, Nat.min_eq_left (by rw [dataLength]; omega), textBits]

/-- NE's text is read without an error, and its characters contribute its bits. -/
theorem refEncode_read (sch : Scheme) (caseBit padBit : Bool) (bytes : List Byte) :
    ∃ seen, WindowRead sch (refEncode sch caseBit padBit bytes) seen (textBits sch bytes) := by
  have hlast := (mul_ceilDiv_bounds (groupBits_pos sch) (8 * bytes.length)).2
  have hdata := WindowRead.values (sch := sch) caseBit
    (vs := (List.range (dataLength sch bytes.length)).map (bitGroup (groupBits sch) (bitsOfBytes bytes)))
    (by simp [bitGroup_lt])
  rw [List.map_map, List.flatMap_map, flatMap_bitGroup (by rw [bitsOfBytes_length]; exact hlast.le),
    take_groups_eq_textBits] at hdata
  by_cases hpads : padBit = false ∧ hasPad sch = true
  · exact hdata.pads hpads.2 _
  · rw [refEncode, encodedLength, if_neg hpads, Nat.sub_self, List.replicate_zero, List.append_nil]
    exact ⟨false, hdata⟩

/-! The bytes of a window -/

/-- Eight bits at the front are a byte (R183). -/
theorem bytesOfBits_append {bits : List Bool} (h : bits.length = 8) (more : List Bool) :
    bytesOfBits (bits ++ more) = BitVec.ofNat 8 (numberOfBits bits) :: bytesOfBits more := by
  have hcount : (bits ++ more).length / 8 = more.length / 8 + 1 := by
    rw [List.length_append, h]
    omega
  have hfirst : ((bits ++ more).drop (8 * 0)).take 8 = bits := by simp [← h]
  have hrest (i : Nat) : (bits ++ more).drop (8 * (i + 1)) = more.drop (8 * i) := by
    rw [Nat.mul_succ, Nat.add_comm, ← h, List.drop_length_add_append]
  rw [bytesOfBits, hcount, List.range_succ_eq_map, List.map_cons, List.map_map, hfirst]
  simp only [Function.comp_def, hrest, bytesOfBits]

/-- The bits of bytes are those bytes, with less than a byte of bits behind them. -/
theorem bytesOfBits_bitsOfBytes (bytes : List Byte) {more : List Bool} (h : more.length < 8) :
    bytesOfBits (bitsOfBytes bytes ++ more) = bytes := by
  induction bytes with
  | nil => simp [bitsOfBytes, bytesOfBits, Nat.div_eq_of_lt h]
  | cons b bytes ih =>
    have hsplit : bitsOfBytes (b :: bytes) = bitsOfBytes [b] ++ bitsOfBytes bytes := bitsOfBytes_append [b] bytes
    rw [hsplit, List.append_assoc, bytesOfBits_append (bitsOfBytes_length [b]), numberOfBits_byte, ih,
      BitVec.ofNat_toNat, BitVec.setWidth_eq]

/-- A chunk's text closes as a window that yields the chunk (R180 to R183). -/
theorem refWindowEnd_textBits {sch : Scheme} {chunk : List Byte} (hsome : chunk ≠ [])
    (hfits : chunk.length ≤ chunkBytes sch) : refWindowEnd sch (textBits sch chunk) = .ok chunk := by
  have hpos := List.length_pos_iff.mpr hsome
  obtain ⟨hchunk, hwindow⟩ := window_is_chunk sch
  obtain ⟨hcover, hlast⟩ := mul_ceilDiv_bounds (groupBits_pos sch) (8 * chunk.length)
  have hk := groupBits_le_eight sch
  have hbytes : bytesOfBits (textBits sch chunk) = chunk :=
    bytesOfBits_bitsOfBytes chunk (by rw [List.length_replicate, dataLength]; omega)
  have hcount : (textBits sch chunk).length / 8 = chunk.length :=
    textBits_length sch chunk ▸ bytes_in_groups sch chunk.length
  rw [refWindowEnd, hbytes, hcount]
  split
  · next hshort =>
    rw [textBits_length] at hshort ⊢
    rw [if_pos]
    constructor
    · rw [validShort_eq]
      refine List.mem_map.mpr ⟨chunk.length - 1, List.mem_range.mpr ?_, ?_⟩
      · rw [dataLength] at hshort
        omega
      · rw [Nat.sub_add_cancel hpos]
        rfl
    · rw [textBits, ← bitsOfBytes_length, List.drop_left]
      simp
  · rfl

/-! The windows of a text -/

theorem refEncode_length_of_chunk {sch : Scheme} (caseBit padBit : Bool) {chunk : List Byte}
    (hchunk : chunk.length = chunkBytes sch) : (refEncode sch caseBit padBit chunk).length = windowChars sch := by
  have hone := (encodedLength_chunks sch padBit 1).1
  rwa [Nat.mul_one, Nat.mul_one, ← hchunk, ← refEncode_length sch caseBit] at hone

/-- A whole chunk's text is a window that yields the chunk. -/
theorem refWindows_refEncode_append {sch : Scheme} (caseBit encPad decPad : Bool) {chunk : List Byte}
    (hchunk : chunk.length = chunkBytes sch) (rest : List Byte) (n : Nat) :
    refWindows sch decPad (n + 1) (refEncode sch caseBit encPad (chunk ++ rest))
      = (refWindows sch decPad n (refEncode sch caseBit encPad rest)).map (chunk ++ ·) := by
  have hfull := refEncode_length_of_chunk caseBit encPad hchunk
  have hsome : chunk ≠ [] := List.length_pos_iff.mp (hchunk ▸ chunkBytes_pos sch)
  obtain ⟨seen, hread⟩ := refEncode_read sch caseBit encPad chunk
  rw [refEncode_append _ _ (hchunk ▸ dvd_rfl), refWindows_append hfull, refWindow_full hread hfull,
    refWindowEnd_textBits hsome hchunk.le]
  rfl

/-- Every byte has eight bits and a character has no more, so a text is at least as long as its bytes. -/
theorem length_le_encodedLength (sch : Scheme) (padBit : Bool) (n : Nat) : n ≤ encodedLength sch padBit n := by
  have hcover : 8 * n ≤ groupBits sch * dataLength sch n := (mul_ceilDiv_bounds (groupBits_pos sch) (8 * n)).1
  have hchars := dataLength_le_encodedLength sch padBit n
  have hwidth := Nat.mul_le_mul_right (dataLength sch n) (groupBits_le_eight sch)
  omega

/-- Only the empty message has the empty text. -/
theorem eq_nil_of_refEncode_length {sch : Scheme} {caseBit padBit : Bool} {bytes : List Byte}
    (h : (refEncode sch caseBit padBit bytes).length = 0) : bytes = [] := by
  rw [refEncode_length] at h
  exact List.length_eq_zero_iff.mp (Nat.le_zero.mp (h ▸ length_le_encodedLength sch padBit bytes.length))

/-- The text of a short chunk leaves a window open before its pads (R144). -/
theorem dataLength_lt_window {sch : Scheme} {b : Nat} (h : b < chunkBytes sch) :
    dataLength sch b < windowChars sch := by
  obtain ⟨hchunk, hwindow⟩ := window_is_chunk sch
  have hlast : groupBits sch * dataLength sch b < _ := (mul_ceilDiv_bounds (groupBits_pos sch) (8 * b)).2
  have hk := groupBits_le_eight sch
  exact Nat.lt_of_mul_lt_mul_left (a := groupBits sch) (by omega)

/-- The text of a short chunk is a whole window under Include; without pads, it is a window that the end of the text
cuts short (R186). -/
theorem refWindows_refEncode_short {sch : Scheme} (caseBit encPad decPad : Bool) {chunk : List Byte}
    (hsome : chunk ≠ []) (hshort : chunk.length < chunkBytes sch) (n : Nat) :
    refWindows sch decPad (n + 1) (refEncode sch caseBit encPad chunk)
      = if encPad = true ∧ decPad = false then .error .invalidCharacter else .ok chunk := by
  have hpos := List.length_pos_iff.mpr hsome
  obtain ⟨seen, hread⟩ := refEncode_read sch caseBit encPad chunk
  have hend := refWindowEnd_textBits hsome hshort.le
  have htext : refEncode sch caseBit encPad chunk ≠ [] := fun h =>
    hsome (eq_nil_of_refEncode_length (List.length_eq_zero_iff.mpr h))
  cases encPad with
  | false =>
    have haspad : hasPad sch = true := by
      cases sch with
      | hex => exact absurd hshort (Nat.not_lt.mpr hpos)
      | b32 | b64 | b64url => rfl
    have hone : ceilDiv chunk.length (chunkBytes sch) = 1 := by
      rw [ceilDiv, Nat.div_eq_of_lt_le] <;> omega
    have hfull : (refEncode sch caseBit false chunk).length = windowChars sch := by
      rw [refEncode_length, encodedLength, if_pos ⟨rfl, haspad⟩, hone, Nat.mul_one]
    rw [refWindows_single htext hfull.le, refWindow_full hread hfull, hend, if_neg (by simp)]
  | true =>
    have hcut : (refEncode sch caseBit true chunk).length < windowChars sch := by
      rw [refEncode_length]
      exact dataLength_lt_window hshort
    rw [refWindows_single htext hcut.le, refWindow_short hread hcut, hend]
    simp only [true_and]

/-- NE's decode of NE's text gives the bytes back, except that Required refuses what None left unpadded (R189). -/
theorem refWindows_refEncode (sch : Scheme) (caseBit encPad decPad : Bool) (bytes : List Byte) {n : Nat}
    (hfuel : (refEncode sch caseBit encPad bytes).length ≤ n) :
    refWindows sch decPad n (refEncode sch caseBit encPad bytes)
      = if encPad = true ∧ decPad = false ∧ bytes.length % chunkBytes sch ≠ 0 then .error .invalidCharacter
        else .ok bytes := by
  induction n generalizing bytes with
  | zero =>
    obtain rfl := eq_nil_of_refEncode_length (Nat.le_zero.mp hfuel)
    simp [refWindows]
  | succ n ih =>
    by_cases hshort : bytes.length < chunkBytes sch
    · by_cases hempty : bytes = []
      · simp [hempty, refEncode_nil]
      · rw [refWindows_refEncode_short _ _ _ hempty hshort, Nat.mod_eq_of_lt hshort]
        simp [hempty]
    · obtain ⟨chunk, rest, rfl, hchunk⟩ : ∃ chunk rest, bytes = chunk ++ rest ∧ chunk.length = chunkBytes sch :=
        ⟨_, _, (List.take_append_drop _ bytes).symm, List.length_take_of_le (Nat.le_of_not_lt hshort)⟩
      have hpos := windowChars_pos sch
      rw [refEncode_append _ _ (hchunk ▸ dvd_rfl), List.length_append, refEncode_length_of_chunk _ _ hchunk] at hfuel
      rw [refWindows_refEncode_append _ _ _ hchunk, ih rest (by omega), List.length_append, hchunk, Nat.add_mod_left]
      split <;> rfl

/-- The characters of a HEX text come in pairs, so R187 finds nothing. -/
theorem refDecode_refEncode (sch : Scheme) (caseBit encPad decPad : Bool) (bytes : List Byte) :
    refDecode sch decPad (refEncode sch caseBit encPad bytes)
      = if encPad = true ∧ decPad = false ∧ bytes.length % chunkBytes sch ≠ 0 then .error .invalidCharacter
        else .ok bytes := by
  rw [refDecode, if_neg, refWindows_refEncode _ _ _ _ _ (Nat.le_refl _)]
  rintro ⟨rfl, hodd⟩
  have hpairs := (encodedLength_chunks .hex encPad bytes.length).1
  rw [chunkBytes, windowChars, Nat.one_mul, ← refEncode_length .hex caseBit] at hpairs
  omega

/-! The round trip on the machine -/

/-- No command writes DEPTH (10_state.md R31). -/
theorem CommandResult.depth {s t : State} {i : Instr} (h : CommandResult s i t) : t.depth = s.depth := by
  cases h with
  | nop | cfg | rdreg | rdout | srst | naked => rfl
  | @putb data => exact (putByte_frame data s).depth
  | @putc data => exact (acceptChar_frame data s).depth
  | endMsg => exact (closeMessage_depth _).trans (flushMessage_frame s).depth

theorem runCommands_depth {program : List Instr} {s t : State} (h : runCommands program s = .next t) :
    t.depth = s.depth := by
  induction program generalizing s with
  | nil => exact congrArg State.depth (Host.Outcome.next.inj h).symm
  | cons i rest ih =>
    obtain ⟨u, hu⟩ := exists_commandResult s i
    rw [runCommands_cons hu.exec_eq] at h
    exact (ih h).trans hu.depth

/-- Settles O49: both messages end as NE's functions say, and NE's decode inverts NE's encode. -/
theorem roundTripOfEveryMessage : Obligations.RoundTripOfEveryMessage := by
  intro s sch caseBit encPad decPad bytes legalEncode legalDecode hfits
  obtain ⟨t, hencode, htext⟩ := encodeMessage_ends s bytes legalEncode
  obtain ⟨hstate, -, -, houtput⟩ := htext.of_fits (refEncode_length .. ▸ hfits)
  obtain ⟨u, hdecode, hresult⟩ := decodeMessage_ends t (refEncode sch caseBit encPad bytes) legalDecode
  refine ⟨t, _, hencode, hstate, houtput, u, hdecode, ?_⟩
  rw [runCommands_depth hencode, refDecode_refEncode] at hresult
  split at hresult
  · next hrefused =>
    obtain ⟨rfl, rfl, -⟩ := hrefused
    obtain ⟨hfailed, hreason, -⟩ := hresult
    exact ⟨fun hpair => by simp at hpair, fun _ => ⟨hfailed, hreason⟩⟩
  · next haccepted =>
    rw [EndsWithResult, if_pos ((length_le_encodedLength sch encPad bytes.length).trans hfits)] at hresult
    exact ⟨fun _ => hresult, fun hrefused => absurd hrefused haccepted⟩

end Sys2Proof.Laws
end

section
/-! PROOFS. The readback commands: what RDREG and RDOUT answer, and that no command reads the response of the command
before it (43_readback.md R210 to R214). -/

namespace Sys2Proof.Laws

open Sys2Proof.Machine

/-! RDREG -/

/-- RDREG answers the register's value with bit 31 clear, and writes the response only (R210). -/
theorem exec_rdreg_of_readReg {s : State} {reg : BitVec 4} {v : Payload} (value : readReg reg s = some v) :
    exec (.rdreg reg) s = .next { s with response := some (v.setWidth 32) } :=
  CommandResult.exec_eq (.rdreg value)

/-- A register of at most 31 bits is answered zero-extended. -/
theorem exec_rdreg_of_setWidth {s : State} {reg : BitVec 4} {n : Nat} (hn : n ≤ 31) {x : BitVec n}
    (value : readReg reg s = some (x.setWidth 31)) :
    exec (.rdreg reg) s = .next { s with response := some (x.setWidth 32) } := by
  rw [exec_rdreg_of_readReg value, BitVec.setWidth_setWidth (by omega)]

/-- SCHEME_INFO's fields lie side by side, so that their disjunction is a sum (10_state.md R32). -/
theorem schemeInfo_setWidth (sch : Scheme) : (schemeInfo sch).setWidth 32
    = BitVec.ofNat 32 (groupBits sch + 16 * chunkBytes sch + 256 * windowChars sch + 4096 * (hasPad sch).toNat) := by
  cases sch <;> decide

/-- Settles O37: the eight rows of the register table, and the NAK of the other indices and of R84's zero field. -/
theorem rdregReturnsEachRegister : Obligations.RdregReturnsEachRegister := by
  refine ⟨fun s => ?_, fun s reg hreg => exec_of_nakCause (i := .rdreg reg) hreg,
    fun s w hop hzero => runWord_of_reservedWord (.inr (.inr (.inr (.inr ⟨hop, hzero⟩)))) s⟩
  refine ⟨exec_rdreg_of_readReg (v := idValue) rfl, exec_rdreg_of_setWidth (by decide) rfl,
    exec_rdreg_of_setWidth (by decide) rfl, exec_rdreg_of_setWidth (by decide) rfl,
    exec_rdreg_of_setWidth (by decide) rfl, exec_rdreg_of_readReg rfl, exec_rdreg_of_setWidth (by decide) rfl, ?_⟩
  rw [← schemeInfo_setWidth]
  exact exec_rdreg_of_readReg rfl

/-! RDOUT -/

theorem obufEntry_of_read {m : Memory} {a : Nat} {x : Byte} (h : Memory.read m a = some x) : obufEntry m a = x := by
  simp [obufEntry, h]

/-- An accepted RDOUT answers the entry zero-extended, and writes the response only (R212). -/
theorem exec_rdout_readable {s : State} {addr : BitVec 12} (readable : entryReadable addr s = true) :
    exec (.rdout addr) s = .next { s with response := some ((obufEntry s.obuf addr.toNat).setWidth 32) } := by
  rw [(CommandResult.rdout readable).exec_eq, respond, BitVec.setWidth_setWidth (by decide)]

/-- Settles O39: R51's invariant has every entry below OUT_COUNT written. -/
theorem rdoutReturnsEmittedEntry : Obligations.RdoutReturnsEmittedEntry := by
  refine ⟨fun s addr hstate hbelow => ?_, fun s addr cause => exec_of_nakCause (i := .rdout addr) cause⟩
  have hexec := exec_rdout_readable ((entryReadable_iff addr s).mpr ⟨hstate, hbelow⟩)
  refine ⟨⟨_, hexec⟩, fun x hread => obufEntry_of_read hread ▸ hexec, fun hinv => ?_⟩
  obtain ⟨-, hwritten, -⟩ := hinv.obuf
  exact Option.isSome_iff_exists.mp (hwritten addr.toNat hbelow)

/-! A response is written and never read: the operations commute with writing one, and every command then writes its
own. -/

/-- The state with another response. -/
@[simps] def withResponse (r : Option Response) (s : State) : State := { s with response := r }

section operations

variable (r : Option Response) (s : State)

theorem emit_withResponse (x : Byte) : emit x (withResponse r s) = withResponse r (emit x s) := by
  simp only [emit, withResponse_outCount, withResponse_depth]
  split <;> rfl

theorem emitAll_withResponse (xs : List Byte) :
    emitAll xs (withResponse r s) = withResponse r (emitAll xs s) := by
  induction xs generalizing s with
  | nil => rfl
  | cons x xs ih => exact (congrArg (emitAll xs) (emit_withResponse r s x)).trans (ih _)

theorem raise_withResponse (e : ErrReason) : raise e (withResponse r s) = withResponse r (raise e s) := by
  simp only [raise, withResponse_errReason]
  split <;> rfl

theorem windowClose_withResponse : windowClose (withResponse r s) = withResponse r (windowClose s) := by
  simp only [windowClose, withResponse_config, withResponse_acc, withResponse_bits]
  split
  · exact raise_withResponse r s _
  · rw [emitAll_withResponse]
    rfl

theorem advanceWindow_withResponse : advanceWindow (withResponse r s) = withResponse r (advanceWindow s) := by
  simp only [advanceWindow, withResponse_config, withResponse_cnt]
  split
  · exact windowClose_withResponse r { s with cnt := s.cnt + 1#4 }
  · rfl

theorem consumeChar_withResponse (data : Byte) :
    consumeChar data (withResponse r s) = withResponse r (consumeChar data s) := by
  simp only [consumeChar, withResponse_config, withResponse_padSeen]
  split
  · exact advanceWindow_withResponse r { s with padSeen := true }
  · split
    · exact raise_withResponse r s _
    · exact advanceWindow_withResponse r (insertGroup _ s)
  · exact raise_withResponse r s _

theorem acceptChar_withResponse (data : Byte) :
    acceptChar data (withResponse r s) = withResponse r (acceptChar data s) := by
  simp only [acceptChar, withResponse_errReason]
  split
  · exact consumeChar_withResponse r (countInput s) data
  · rfl

theorem completeChunk_withResponse : completeChunk (withResponse r s) = withResponse r (completeChunk s) := by
  simp only [completeChunk, emitChunk, withResponse_config, withResponse_cnt, withResponse_acc, emitAll_withResponse]
  split <;> rfl

theorem flushedOutput_withResponse : flushedOutput (withResponse r s) = withResponse r (flushedOutput s) := by
  simp only [flushedOutput, withResponse_config, withResponse_cnt, withResponse_acc, withResponse_errReason,
    emitAll_withResponse, windowClose_withResponse]
  split_ifs <;> rfl

/-- END's effect does not read the response. -/
theorem closeMessage_flushMessage_withResponse :
    closeMessage (flushMessage (withResponse r s)) = withResponse r (closeMessage (flushMessage s)) := by
  rw [closeMessage_flushMessage, closeMessage_flushMessage, flushedOutput_withResponse]
  rfl

end operations

theorem respondStatus_withResponse (r : Option Response) (s : State) :
    respondStatus (withResponse r s) = respondStatus s := rfl

/-- A command answers from a state with another response what it answers from the state itself. -/
theorem CommandResult.of_withResponse {s t : State} {i : Instr} (r : Option Response) (h : CommandResult s i t) :
    CommandResult (withResponse r s) i t := by
  cases h with
  | nop => exact .nop
  | cfg legal => exact .cfg legal
  | @putb data encoding =>
    rw [← respondStatus_withResponse r, ← completeChunk_withResponse]
    exact .putb (s := withResponse r s) encoding
  | @putc data decoding =>
    rw [← respondStatus_withResponse r, ← acceptChar_withResponse]
    exact .putc (s := withResponse r s) decoding
  | endMsg active =>
    rw [← respondStatus_withResponse r, ← closeMessage_flushMessage_withResponse]
    exact .endMsg (s := withResponse r s) active
  | rdreg value => exact .rdreg (s := withResponse r s) value
  | rdout readable => exact .rdout (s := withResponse r s) readable
  | srst => exact .srst
  | naked cause => exact .naked (s := withResponse r s) cause

theorem exec_withResponse (r : Option Response) (s : State) (i : Instr) : exec i (withResponse r s) = exec i s := by
  obtain ⟨t, ht⟩ := exists_commandResult s i
  rw [ht.exec_eq, (ht.of_withResponse r).exec_eq]

/-- An accepted read writes the response and nothing else (R214). -/
theorem CommandResult.eq_withResponse_of_read {s t : State} {i : Instr} (h : CommandResult s i t)
    (hread : (∃ reg, i = .rdreg reg) ∨ ∃ addr, i = .rdout addr) (accepted : ¬ NakCause s i) :
    t = withResponse t.response s := by
  cases h with
  | rdreg | rdout => rfl
  | naked cause => exact absurd cause accepted
  | nop | cfg | putb | putc | endMsg | srst => simp at hread

/-- Settles O40: an accepted read leaves the same state with another response, which no command reads; the read itself
is one of them. -/
theorem readsHaveNoSideEffects : Obligations.ReadsHaveNoSideEffects := by
  refine fun s i hread => ⟨fun accepted => ?_, fun cause => ⟨_, exec_of_nakCause cause, rfl⟩⟩
  obtain ⟨t, ht⟩ := exists_commandResult s i
  have hsame : t = withResponse t.response s := ht.eq_withResponse_of_read hread accepted
  have hexec (j : Instr) : exec j t = exec j s := hsame ▸ exec_withResponse t.response s j
  exact ⟨t, ht.exec_eq, hsame, (hexec i).trans ht.exec_eq, hexec⟩

end Sys2Proof.Laws
end

section
/-! PROOFS. The complete list of NAK causes and the words that no command has (60_exceptions.md R239). -/

namespace Sys2Proof.Laws

open Sys2Proof.Machine

/-- A word of an opcode with a zero field is reserved only when that field is not 0 (30_encoding.md R84). -/
theorem unlessZeroField_reserved {op : BitVec 4} {n : Nat} {field : BitVec n} {i : Instr} {why : Reserved}
    (h : unlessZeroField op (field == 0#n) i = .reserved why) : field ≠ 0#n := by
  rintro rfl
  simp [unlessZeroField] at h

/-- An opcode that no command has is one of 0x8 to 0xF. -/
theorem eight_le_of_no_opcode {op : BitVec 4} (h0 : op ≠ 0#4) (h1 : op ≠ 1#4) (h2 : op ≠ 2#4) (h3 : op ≠ 3#4)
    (h4 : op ≠ 4#4) (h5 : op ≠ 5#4) (h6 : op ≠ 6#4) (h7 : op ≠ 7#4) : 8 ≤ op.toNat := by bv_omega

/-- The decoder answers Reserved on the words of R84's and R85's list only: it compared the opcode, or checked the
zero field of the opcode that fits. -/
theorem reservedWord_of_decode {w : CmdWord} {why : Reserved} (h : decode w = .reserved why) : ReservedWord w := by
  simp only [decode] at h
  split_ifs at h with hnop hcfg hputb hputc hend hrdreg hrdout hsrst
  · exact .inr (.inl ⟨.inl hnop, unlessZeroField_reserved h⟩)
  · exact .inr (.inr (.inl ⟨hcfg, unlessZeroField_reserved h⟩))
  · exact .inr (.inr (.inr (.inl ⟨.inl hputb, unlessZeroField_reserved h⟩)))
  · exact .inr (.inr (.inr (.inl ⟨.inr hputc, unlessZeroField_reserved h⟩)))
  · exact .inr (.inl ⟨.inr (.inl hend), unlessZeroField_reserved h⟩)
  · exact .inr (.inr (.inr (.inr ⟨hrdreg, unlessZeroField_reserved h⟩)))
  · exact .inr (.inl ⟨.inr (.inr hsrst), unlessZeroField_reserved h⟩)
  · exact .inl (eight_le_of_no_opcode hnop hcfg hputb hputc hend hrdreg hrdout hsrst)

/-- Settles O9: a cause is the failure of a meaning's own check, an accepted command's response is a payload, and the
decoder's reserved words are those of the list. -/
theorem nakExactlyOnListedCauses : Obligations.NakExactlyOnListedCauses := by
  refine ⟨fun _ _ cause => exec_of_nakCause cause, fun s i accepted => ?_,
    fun w => ⟨decode_of_reservedWord, fun ⟨_, hwhy⟩ => reservedWord_of_decode hwhy⟩,
    fun s _ hw => runWord_of_reservedWord hw s⟩
  obtain ⟨t, r, hexec, hresponse, hbit, -⟩ := responseOfEveryCommand.1 s i accepted
  exact ⟨t, r, hexec, hresponse, hbit⟩

end Sys2Proof.Laws
end

section
/-! PROOFS. ERR_REASON in a message: the first format error is latched, and END keeps it but for an odd length
(60_exceptions.md R233 to R236, 40_control.md R115). -/

namespace Sys2Proof.Laws

open Sys2Proof.Machine

/-! The latch -/

/-- ERR_REASON of `t` is that of `s`, or a format error where `s` had latched none (R235). -/
def ReasonLatched (s t : State) : Prop :=
  t.errReason = s.errReason ∨ (s.errReason = 0#3 ∧ (t.errReason = 1#3 ∨ t.errReason = 2#3))

theorem ReasonLatched.of_latched {s t : State} (h : ReasonLatched s t) (latched : s.errReason ≠ 0#3) :
    t.errReason = s.errReason := h.resolve_right fun hnew => latched hnew.1

theorem ReasonLatched.le_two {s t : State} (h : ReasonLatched s t) (hs : s.errReason.toNat ≤ 2) :
    t.errReason.toNat ≤ 2 := by
  obtain hkept | ⟨-, hnew | hnew⟩ := h
  · rwa [hkept]
  all_goals
    rw [hnew]
    decide

theorem raise_reasonLatched {e : ErrReason} (he : e = .invalidCharacter ∨ e = .invalidPadding) (s : State) :
    ReasonLatched s (raise e s) := by
  by_cases unlatched : s.errReason = 0#3
  · rw [raise_first e unlatched]
    exact .inr ⟨unlatched, he.imp (congrArg errCode) (congrArg errCode)⟩
  · rw [raise_later e unlatched]
    exact .inl rfl

theorem windowClose_reasonLatched (s : State) : ReasonLatched s (windowClose s) := by
  obtain ⟨-, h⟩ | ⟨n, -, h⟩ := windowClose_cases s <;> rw [h]
  · exact raise_reasonLatched (.inr rfl) s
  · exact .inl (emitAll_errReason s _)

theorem advanceWindow_reasonLatched (s : State) : ReasonLatched s (advanceWindow s) := by
  obtain ⟨-, h⟩ | ⟨-, h⟩ := advanceWindow_cases s <;> rw [h]
  · exact .inl rfl
  · exact windowClose_reasonLatched { s with cnt := s.cnt + 1#4 }

theorem consumeChar_reasonLatched (data : Byte) (s : State) : ReasonLatched s (consumeChar data s) := by
  obtain ⟨-, h⟩ | ⟨v, -, -, h⟩ | ⟨v, -, -, h⟩ | ⟨-, h⟩ := consumeChar_cases data s <;> rw [h]
  · exact advanceWindow_reasonLatched { s with padSeen := true }
  · exact raise_reasonLatched (.inr rfl) s
  · exact advanceWindow_reasonLatched (insertGroup v s)
  · exact raise_reasonLatched (.inl rfl) s

theorem acceptChar_reasonLatched (data : Byte) (s : State) : ReasonLatched s (acceptChar data s) := by
  by_cases unlatched : s.errReason = 0#3
  · rw [acceptChar_unlatched unlatched]
    exact consumeChar_reasonLatched data (countInput s)
  · rw [acceptChar_latched unlatched]
    exact .inl rfl

/-- A command that stays in the message latches at most its first format error. -/
theorem CommandResult.reasonLatched {s t : State} {i : Instr} (h : CommandResult s i t) (hend : i ≠ .endMsg)
    (hsrst : i ≠ .srst)
    (hcfg : ∀ sch dir c p, i = .cfg sch dir c p → legalConfig sch dir c p = false) : ReasonLatched s t := by
  cases h with
  | nop | rdreg | rdout | naked => exact .inl rfl
  | cfg legal => simp [hcfg _ _ _ _ rfl] at legal
  | putb encoding => exact .inl (CommandResult.putb encoding).putb_keeps.1
  | putc => exact acceptChar_reasonLatched _ s
  | endMsg => exact absurd rfl hend
  | srst => exact absurd rfl hsrst

/-! END -/

/-- END's flush latches at most the message's first format error (42_decode.md R185 to R187). -/
theorem flushedOutput_reasonLatched (s : State) : ReasonLatched s (flushedOutput s) := by
  unfold flushedOutput
  split_ifs with _ _ hnone
  · exact .inl rfl
  · exact .inl (emitAll_errReason s _)
  · exact .inl rfl
  · exact .inr ⟨by_contra fun latched => hnone (.inl latched), .inl rfl⟩
  · exact windowClose_reasonLatched s

/-- FinalReason's three ways (40_control.md R115). -/
theorem finalReason_cases (s : State) :
    ((dirOf s.config = .decode ∧ schemeOf s.config = .hex ∧ s.inCount.getLsbD 0 = true) ∧ finalReason s = 3#3)
      ∨ (s.errReason = 0#3 ∧ finalReason s = 4#3) ∨ finalReason s = s.errReason := by
  unfold finalReason
  split_ifs with hodd hover
  · exact .inl ⟨hodd, rfl⟩
  · exact .inr (.inl ⟨hover.1, rfl⟩)
  · exact .inr (.inr rfl)

/-- A latched reason is END's final reason, but for an odd length. -/
theorem finalReason_of_latched {s : State} (latched : s.errReason ≠ 0#3) :
    finalReason s = s.errReason ∨ finalReason s = 3#3 := by
  obtain ⟨-, hodd⟩ | ⟨hnone, -⟩ | hkept := finalReason_cases s
  · exact .inr hodd
  · exact absurd hnone latched
  · exact .inl hkept

/-- Settles O36: what a command of the message or END's flush does to ERR_REASON is the latch of `raise`, and the final
reason keeps what is latched or is 3. -/
theorem firstErrorIsLatchedOnce : Obligations.FirstErrorIsLatchedOnce := by
  refine ⟨fun s i _ hend hsrst hcfg => ?_, fun s active hlow => ⟨_, exec_endMsg active, ?_⟩⟩
  · obtain ⟨t, ht⟩ := exists_commandResult s i
    have hlatch := ht.reasonLatched hend hsrst hcfg
    exact ⟨t, ht.exec_eq, hlatch.of_latched, fun unlatched => hlatch.le_two (by simp [unlatched])⟩
  · have hfinal (latched : s.errReason ≠ 0#3) : finalReason (flushedOutput s) = s.errReason
        ∨ finalReason (flushedOutput s) = 3#3 := by
      have hflushed := (flushedOutput_reasonLatched s).of_latched latched
      exact hflushed ▸ finalReason_of_latched (hflushed ▸ latched)
    refine ⟨hfinal, fun hover : finalReason (flushedOutput s) = 4#3 => by_contra fun latched => ?_⟩
    obtain hkept | hodd := hfinal latched
    · rw [← hkept, hover] at hlow
      exact absurd hlow (by decide)
    · exact absurd (hodd.symm.trans hover) (by decide)

/-! ODD_LENGTH -/

/-- HEX decode has one legal configuration (10_state.md R24). -/
theorem config_eq_of_hex_decode {config : BitVec 5} (decoding : dirOf config = .decode) (hex : schemeOf config = .hex)
    (legal : legalConfig (schemeOf config) (dirOf config) (caseOf config) (padOf config) = true) :
    config = 0x04#5 := by
  obtain ⟨hpad, hcase⟩ := (legalConfig_iff _ _ _ _).mp legal
  have hlower : caseOf config = false := Bool.eq_false_iff.mpr fun h => nomatch decoding.symm.trans (hcase h).1
  calc config = configBits (schemeOf config) (dirOf config) (caseOf config) (padOf config) :=
        (configBits_fields config).symm
    _ = configBits .hex .decode false false := by rw [hex, decoding, hlower, hpad hex]

/-- While no more than a format error is latched, END gives 3 for an odd HEX decode message only. -/
theorem odd_of_finalReason_eq_three {s : State} (hlow : s.errReason.toNat ≤ 2) (h : finalReason s = 3#3) :
    dirOf s.config = .decode ∧ schemeOf s.config = .hex ∧ s.inCount.getLsbD 0 = true := by
  obtain ⟨hodd, -⟩ | ⟨-, hover⟩ | hkept := finalReason_cases s
  · exact hodd
  · exact absurd (hover.symm.trans h) (by decide)
  · rw [← hkept, h] at hlow
    exact absurd hlow (by decide)

/-- Settles O20: the odd length is the first of FinalReason's checks, and the flush latches no reason above 2. -/
theorem oddLengthIsHexDecodeWithOddInput : Obligations.OddLengthIsHexDecodeWithOddInput := by
  refine ⟨fun s active hconfig hodd => ⟨_, exec_endMsg active, ?_⟩,
    fun s t active hlow legal hend hreason => ?_, fun s text hodd => ?_⟩
  · have hframe := flushedOutput_frame s
    have hflushed : (flushedOutput s).config = 0x04#5 := hframe.config.trans hconfig
    have decoding : dirOf (flushedOutput s).config = .decode := congrArg dirOf hflushed
    have hex : schemeOf (flushedOutput s).config = .hex := congrArg schemeOf hflushed
    obtain ⟨hstate, hthree, -⟩ := closed_of_odd decoding hex (hframe.inCount ▸ hodd)
    exact ⟨hstate, hthree⟩
  · obtain rfl := Host.Outcome.next.inj ((exec_endMsg active).symm.trans hend)
    have hframe := flushedOutput_frame s
    obtain ⟨decoding, hex, hodd⟩ :=
      odd_of_finalReason_eq_three ((flushedOutput_reasonLatched s).le_two hlow) hreason
    rw [hframe.config] at decoding hex
    exact ⟨config_eq_of_hex_decode decoding hex legal, hframe.inCount ▸ hodd⟩
  · obtain ⟨t, hrun, hend⟩ := decodeMessage_ends s text (sch := .hex) (padBit := false) rfl
    rw [refDecode, if_pos ⟨rfl, hodd⟩] at hend
    obtain ⟨hstate, hthree, -⟩ := hend
    exact ⟨t, hrun, hstate, hthree⟩

end Sys2Proof.Laws
end
